-- ==== Sys2Proof/Word.lean ====
section
/-! DEFINITION. The words of the LT-52: bytes, addresses, serials, ranks, block numbers, time. -/

namespace Sys2Proof

/-- One byte. -/
abbrev Byte := BitVec 8

/-- A station address, 16 bits (00_scope.md, Station addresses). -/
abbrev Address := BitVec 16

/-- A message serial, 12 bits, wraps (00_scope.md, Message identity). -/
abbrev Serial := BitVec 12

/-- A rank 0..4095 in eighths of a hop (00_scope.md, Rank). -/
abbrev Rank := BitVec 12

/-- A block number 0..95 of the message store (R117). -/
abbrev Block := Fin 96

/-- A time in 1/96 ms, one FAST bit time: a MID bit has 4 of them and a SLOW bit 16 (R7). -/
abbrev Time := Nat

/-- A time in whole milliseconds: what every deadline is kept in (R74). -/
abbrev Millis := Nat

end Sys2Proof
end

