-- ==== Sys2Proof/Config.lean ====
section
/-! DEFINITION. The free values: what the spec leaves open (log 8). They are constants with no body. -/

namespace Sys2Proof

/-- A byte of an ORIGIN_STATUS response to which no rule gives a value: the serial and attempts bytes for a
FREE slot and the attempts byte for a PENDING one (R158 states neither). The n-th such byte since power-on is
`freeByte n`; nothing is known of it (log 8). -/
opaque Config.freeByte : Nat → Byte

end Sys2Proof
end

