-- ==== Sys2Proof/Syntax.lean ====
section
/-! DEFINITION. The commands of the LT-52: one constructor for each row of spec/opcode_table.json. -/

namespace Sys2Proof

/-- The three air rates, SLOW < MID < FAST (00_scope.md, Air rates). -/
inductive Rate where
  | slow
  | mid
  | fast
  deriving DecidableEq, Repr

/-- The discipline bit of a CARRY header (R4). -/
inductive Discipline where
  | upward
  | spread
  deriving DecidableEq, Repr

/-- A message identity: origin address and serial (00_scope.md, Message identity). -/
structure Ident where
  origin : Address
  serial : Serial
  deriving DecidableEq, Repr

/-- The fields of a BEACON header as they stand on the air (R3). -/
structure BeaconHeader where
  serial : BitVec 8
  period : BitVec 6
  sender : Address
  rank0 : Rank
  rank1 : Rank
  rank2 : Rank
  rank3 : Rank
  deriving DecidableEq, Repr

/-- The fields of a CARRY header as they stand on the air, the pad bit included (R4). -/
structure CarryHeader where
  discipline : Discipline
  target : BitVec 8
  hops : BitVec 5
  origin : Address
  serial : Serial
  sender : Address
  senderRank : Rank
  dest : Address
  length : BitVec 7
  pad : BitVec 1
  deriving DecidableEq, Repr

/-- The fields of a HUSH header (R5). -/
structure HushHeader where
  anchor : BitVec 2
  origin : Address
  serial : Serial
  sender : Address
  deriving DecidableEq, Repr

/-- The fields of a SURVEY header, the pad bits included (R5). -/
structure SurveyHeader where
  sender : Address
  sequence : BitVec 14
  fill : BitVec 6
  pad : BitVec 2
  deriving DecidableEq, Repr

/-- The loss of a frame in reception: the time at which it is taken, and the readings of the frame's level, one a bit
time from its first header bit to the loss (R10). -/
structure FrameLoss where
  time : Time
  levels : List Int
  deriving DecidableEq, Repr

/-- The commands. Every one carries first the time `t` at which it is taken, in 1/96 ms (log 1).
Received levels are signed thousandths of a dB above receiver sensitivity at the frame's rate. A frame carries the readings
of its level, one a bit time from its first header bit: to its last check bit where it is received whole, and to the loss
where it is lost (R10, R11, log 16). -/
inductive Instr where
  /-- POWER_ON (R181). -/
  | powerOn (t : Time)
  /-- RESET_LINE (R181). -/
  | resetLine (t : Time)
  /-- RESET_RELEASE (R181). -/
  | resetRelease (t : Time)
  /-- CONFIG_STATUS_POLL (R182): the status byte read. -/
  | configStatusPoll (t : Time) (status : Byte)
  /-- CONFIG_LOAD_TIMEOUT (R182). -/
  | configLoadTimeout (t : Time)
  /-- CONFIG_READ_DONE (R182): the bytes the memory drove, from offset 0; the rest read as FF hex. -/
  | configReadDone (t : Time) (driven : List Byte)
  /-- PREAMBLE_DETECTED (R9): the rate and the 8-bit unit received. -/
  | preambleDetected (t : Time) (rate : Rate) (unit : Byte)
  /-- START_MARK (R9). -/
  | startMark (t : Time)
  /-- PREAMBLE_END_NO_FRAME (R9): the eight bits received at the awaited rate. -/
  | preambleEndNoFrame (t : Time) (unit : Byte)
  /-- CARRY_HEADER_COMPLETE (R10). -/
  | carryHeaderComplete (t : Time) (header : CarryHeader)
  /-- FRAME_LOST (R10): the time and the level readings up to the loss. -/
  | frameLost (loss : FrameLoss)
  /-- BEACON_RECEIVED (R30): header, check bits, level readings. -/
  | beaconReceived (t : Time) (header : BeaconHeader) (check : BitVec 16) (levels : List Int)
  /-- CARRY_RECEIVED (R65): header, message bytes, check bits, level readings. -/
  | carryReceived (t : Time) (header : CarryHeader) (payload : List Byte) (check : BitVec 16) (levels : List Int)
  /-- HUSH_RECEIVED (R69): header, check bits, level readings. -/
  | hushReceived (t : Time) (header : HushHeader) (check : BitVec 16) (levels : List Int)
  /-- SURVEY_RECEIVED (R177): header, fill bytes, check bits, level readings. -/
  | surveyReceived (t : Time) (header : SurveyHeader) (fill : List Byte) (check : BitVec 16) (levels : List Int)
  /-- BUSY_LEVEL_RISE (R16): the level reached, above sensitivity at SLOW. -/
  | busyLevelRise (t : Time) (level : Int)
  /-- CCA_CLEAR (R16). -/
  | ccaClear (t : Time)
  /-- SETTLING_END (R17). -/
  | settlingEnd (t : Time)
  /-- PREAMBLE_SENT (R17). -/
  | preambleSent (t : Time)
  /-- BODY_END (R17). -/
  | bodyEnd (t : Time)
  /-- NEIGHBOUR_DUE_EXPIRY (R33): the slot. -/
  | neighbourDueExpiry (t : Time) (slot : Fin 32)
  /-- BEACON_DUE_EXPIRY (R51). -/
  | beaconDueExpiry (t : Time)
  /-- BEACON_BACKOFF_EXPIRY (R52). -/
  | beaconBackoffExpiry (t : Time)
  /-- BEACON_REPLACEMENT_EXPIRY (R54). -/
  | beaconReplacementExpiry (t : Time)
  /-- HOLD_DEADLINE_EXPIRY (R91): the hold index. -/
  | holdDeadlineExpiry (t : Time) (index : Fin 16)
  /-- ECHO_DEADLINE_EXPIRY (R98): the hold index. -/
  | echoDeadlineExpiry (t : Time) (index : Fin 16)
  /-- HUSH_BACKOFF_EXPIRY (R112). -/
  | hushBackoffExpiry (t : Time)
  /-- SURVEY_INTERVAL_EXPIRY (R175). -/
  | surveyIntervalExpiry (t : Time)
  /-- SURVEY_BACKOFF_EXPIRY (R175). -/
  | surveyBackoffExpiry (t : Time)
  /-- STRETCH_EXPIRY (R173). -/
  | stretchExpiry (t : Time)
  /-- INDICATOR_ALTERNATION (R173). -/
  | indicatorAlternation (t : Time)
  /-- LSEL_RISE_ABORT (R161). -/
  | lselRiseAbort (t : Time)
  /-- STATUS (R164). -/
  | status (t : Time)
  /-- CONFIGURE (R185): the argument bytes, record offsets 1..47. -/
  | configure (t : Time) (bytes : List Byte)
  /-- SUBMIT (R153, R156): discipline, target, dest node, hop budget and the payload bytes. -/
  | submit (t : Time) (discipline target : Byte) (dest : Address) (hops : Byte) (payload : List Byte)
  /-- ORIGIN_STATUS (R158): the slot byte. -/
  | originStatus (t : Time) (slot : Byte)
  /-- FETCH (R166): n. -/
  | fetch (t : Time) (n : Byte)
  /-- RELEASE (R148). -/
  | release (t : Time)
  /-- READ_EVENTS (R171). -/
  | readEvents (t : Time)
  /-- CLEAR_EVENTS (R171): the selection word. -/
  | clearEvents (t : Time) (selection : BitVec 16)
  /-- SET_EVENTS (R170): masks, trigger modes, latch flags. -/
  | setEvents (t : Time) (masks : BitVec 16) (modes : Byte) (latches : BitVec 16)
  /-- READ_TABLE (R165). -/
  | readTable (t : Time)
  /-- READ_STATS (R179): the clear flag. -/
  | readStats (t : Time) (clear : Byte)
  /-- SILENCE (R167). -/
  | silence (t : Time)
  /-- RESUME (R167). -/
  | resume (t : Time)
  /-- SURVEY (R174): count, interval, rate, fill. -/
  | survey (t : Time) (count interval : BitVec 16) (rate fill : Byte)
  /-- STOP_SURVEY (R176). -/
  | stopSurvey (t : Time)
  /-- READ_SURVEY (R178): the clear flag. -/
  | readSurvey (t : Time) (clear : Byte)
  /-- RESTART (R186). -/
  | restart (t : Time)
  /-- BAD_COMMAND (R162): the command byte. -/
  | badCommand (t : Time) (code : Byte)
  /-- TRANSACTION_ENDED_EARLY (R126): the payload bytes clocked out before LSEL rose. -/
  | transactionEndedEarly (t : Time) (supplied : Nat)
  deriving DecidableEq, Repr

/-- The time at which a command is taken. -/
def Instr.time : Instr → Time
  | .powerOn t => t
  | .resetLine t => t
  | .resetRelease t => t
  | .configStatusPoll t _ => t
  | .configLoadTimeout t => t
  | .configReadDone t _ => t
  | .preambleDetected t _ _ => t
  | .startMark t => t
  | .preambleEndNoFrame t _ => t
  | .carryHeaderComplete t _ => t
  | .frameLost loss => loss.time
  | .beaconReceived t _ _ _ => t
  | .carryReceived t _ _ _ _ => t
  | .hushReceived t _ _ _ => t
  | .surveyReceived t _ _ _ _ => t
  | .busyLevelRise t _ => t
  | .ccaClear t => t
  | .settlingEnd t => t
  | .preambleSent t => t
  | .bodyEnd t => t
  | .neighbourDueExpiry t _ => t
  | .beaconDueExpiry t => t
  | .beaconBackoffExpiry t => t
  | .beaconReplacementExpiry t => t
  | .holdDeadlineExpiry t _ => t
  | .echoDeadlineExpiry t _ => t
  | .hushBackoffExpiry t => t
  | .surveyIntervalExpiry t => t
  | .surveyBackoffExpiry t => t
  | .stretchExpiry t => t
  | .indicatorAlternation t => t
  | .lselRiseAbort t => t
  | .status t => t
  | .configure t _ => t
  | .submit t _ _ _ _ _ => t
  | .originStatus t _ => t
  | .fetch t _ => t
  | .release t => t
  | .readEvents t => t
  | .clearEvents t _ => t
  | .setEvents t _ _ _ => t
  | .readTable t => t
  | .readStats t _ => t
  | .silence t => t
  | .resume t => t
  | .survey t _ _ _ _ => t
  | .stopSurvey t => t
  | .readSurvey t _ => t
  | .restart t => t
  | .badCommand t _ => t
  | .transactionEndedEarly t _ => t

end Sys2Proof
end

