-- ==== Sys2Proof/Decode.lean ====
section
/-! DEFINITION. What bits spell: the command and argument bytes of a lamp port transaction (R161, R162), the units of a
preamble (R2), and the words of the opcode table (none: no row of spec/opcode_table.json has bits, log 13). -/

namespace Sys2Proof

/-- The command bytes the decoder recognises (R162). -/
def commandCodes : List Byte :=
  [0x01, 0x02, 0x10, 0x11, 0x20, 0x21, 0x30, 0x31, 0x32, 0x40, 0x41, 0x50, 0x51, 0x60, 0x61, 0x62, 0x7E]

/-- The number of argument bytes of the commands that have any, but for SUBMIT (R162). -/
def argumentCounts : List (Byte × Nat) :=
  [(0x02, 47), (0x11, 1), (0x20, 1), (0x31, 2), (0x32, 5), (0x41, 1), (0x60, 6), (0x62, 1)]

/-- The number of argument bytes of the command `code`, 0 for a byte that is no command. SUBMIT's depends on its payload
length byte, the sixth argument byte, and is `none` until that is in (R162). -/
def argumentCount (code : Byte) (args : List Byte) : Option Nat :=
  if code = 0x10#8 then args[5]?.map fun length => 6 + length.toNat
  else some (match argumentCounts.find? fun r => r.1 = code with
    | some r => r.2
    | none => 0)

/-- The command that a command byte and its argument bytes spell, in R162's order and widths, each number
most-significant byte first (R161). -/
def commandOf (t : Time) (code : Byte) (args : List Byte) : Instr :=
  let byte (i : Nat) : Byte := args.getD i 0
  let word (i : Nat) : BitVec 16 := byte i ++ byte (i + 1)
  if code = 0x01#8 then .status t
  else if code = 0x02#8 then .configure t args
  else if code = 0x10#8 then .submit t (byte 0) (byte 1) (word 2) (byte 4) (args.drop 6)
  else if code = 0x11#8 then .originStatus t (byte 0)
  else if code = 0x20#8 then .fetch t (byte 0)
  else if code = 0x21#8 then .release t
  else if code = 0x30#8 then .readEvents t
  else if code = 0x31#8 then .clearEvents t (word 0)
  else if code = 0x32#8 then .setEvents t (word 0) (byte 2) (word 3)
  else if code = 0x40#8 then .readTable t
  else if code = 0x41#8 then .readStats t (byte 0)
  else if code = 0x50#8 then .silence t
  else if code = 0x51#8 then .resume t
  else if code = 0x60#8 then .survey t (word 0) (word 2) (byte 4) (byte 5)
  else if code = 0x61#8 then .stopSurvey t
  else if code = 0x62#8 then .readSurvey t (byte 0)
  else if code = 0x7E#8 then .restart t
  else .badCommand t code

/-- How many of the bytes clocked in since LSEL fell belong to the command, its last argument byte included; `none` while
that byte is not in (R161). -/
def commandLength : List Byte → Option Nat
  | [] => none
  | code :: args => (argumentCount code args).bind fun n => if n ≤ args.length then some (1 + n) else none

/-- The command that the bytes clocked in since LSEL fell have completed, taken at `t`; bytes after the last argument byte
are ignored, and with none completed nothing is taken (R161, R162). -/
def decodeTransaction (t : Time) (bytes : List Byte) : Option Instr :=
  (commandLength bytes).map fun n => commandOf t (bytes.getD 0 0) ((bytes.take n).drop 1)

/-- The training unit, the same at every rate (R2). -/
def trainingUnit : Byte := 0xAA

/-- The start mark of a rate (R2). -/
def startMarkOf : Rate → Byte
  | .slow => 0x1E
  | .mid => 0x4B
  | .fast => 0xD2

/-- The command that an `nbits`-bit word `w` spells by the table's bits: none, since no row has bits. -/
def decodeTableWord (_nbits _w : Nat) : Option Instr := none

end Sys2Proof
end

