-- ==== Sys2Proof/Machine/State.lean ====
section
/-! DEFINITION. The state of the LT-52: everything the blocks own, as plain data, and its value after reset. -/

namespace Sys2Proof.Machine

/-- The station states (R180). -/
inductive Station where
  | loading
  | awaitingConfig
  | running
  | silent
  deriving DecidableEq, Repr

/-- What the configuration loader is doing (R181, R182). -/
inductive Loader where
  /-- RSTN low or the supply not up: the loader does nothing (R181). -/
  | held
  /-- Ready poll, begun in the millisecond `since` (R182 step 1). -/
  | polling (since : Millis)
  /-- The 48-byte read is in progress (R182 step 2). -/
  | reading
  /-- The load is over, and the memory pins idle (R182). -/
  | idle
  deriving DecidableEq, Repr

/-- The station's role (R106). -/
inductive Role where
  | lamp
  | anchor
  deriving DecidableEq, Repr

/-- The indicator modes of the record (R173). -/
inductive IndicatorMode where
  | off
  | reach
  | activity
  | combined
  deriving DecidableEq, Repr

/-- The configuration record after clamping (11, section 11.2). -/
structure Record where
  node : Address
  role : Role
  anchorIndex : Fin 4
  zone1 : Byte
  zone2 : Byte
  zone3 : Byte
  zone4 : Byte
  beaconPeriod : Nat
  upAfter : Nat
  downAfter : Nat
  marginMin : Nat
  holdMin : Nat
  holdSpan : Nat
  jitter : Nat
  spreadQuota : Nat
  retryLimit : Nat
  maxHops : Nat
  ccaMs : Nat
  busyLevel : Nat
  preambleUnits : Nat
  startRate : Rate
  maxRate : Rate
  downshiftAfter : Nat
  upshiftAfter : Nat
  powerFloor : Nat
  powerCeiling : Nat
  powerStep : Nat
  denseAbove : Nat
  sparseBelow : Nat
  eventMasks : BitVec 12
  triggerModes : BitVec 8
  latchFlags : BitVec 12
  indicatorMode : IndicatorMode
  stretch : Nat
  deriving DecidableEq, Repr

/-- The parameters in force before a record is accepted: the defaults of 11.2 (R181). The node address has no
default there; 0, which names no station, stands for it (log 5). -/
def Record.default : Record where
  node := 0
  role := .lamp
  anchorIndex := 0
  zone1 := 0
  zone2 := 0
  zone3 := 0
  zone4 := 0
  beaconPeriod := 10
  upAfter := 3
  downAfter := 4
  marginMin := 6
  holdMin := 4
  holdSpan := 64
  jitter := 7
  spreadQuota := 3
  retryLimit := 2
  maxHops := 20
  ccaMs := 2
  busyLevel := 10
  preambleUnits := 4
  startRate := .mid
  maxRate := .fast
  downshiftAfter := 3
  upshiftAfter := 12
  powerFloor := 64
  powerCeiling := 255
  powerStep := 8
  denseAbove := 12
  sparseBelow := 4
  eventMasks := 0x803
  triggerModes := 0xFF
  latchFlags := 0
  indicatorMode := .combined
  stretch := 100

/-- The receiver (R8, R9, R10). `awaiting` is SEARCHING between detection and start mark. -/
inductive Receiver where
  | off
  | searching
  | awaiting (rate : Rate)
  | receiving (rate : Rate)
  deriving DecidableEq, Repr

/-- Who the transmitter was granted to (R15). -/
inductive Owner where
  | beacon
  | hush
  | hold (index : Fin 16)
  | survey
  deriving DecidableEq, Repr

/-- The phases of an attempt (R14 to R17). -/
inductive Phase where
  | assessing
  | settling
  | preamble
  | body
  deriving DecidableEq, Repr

/-- The attempt in progress: its owner, the rate fixed at the grant, its phase and the end of that phase. -/
structure Attempt where
  owner : Owner
  rate : Rate
  phase : Phase
  ends : Time
  deriving DecidableEq, Repr

/-- The standing of a neighbour (R31, R33). -/
inductive Standing where
  | candidate
  | up
  | silent
  deriving DecidableEq, Repr

/-- One mark of a reception history (R23). -/
inductive Mark where
  | heard
  | missed
  deriving DecidableEq, Repr

/-- A neighbour entry (02, section 2.1). The history is newest first. -/
structure Neighbour where
  address : Address
  standing : Standing
  history : List Mark
  heardStreak : Nat
  missStreak : Nat
  missesNoted : Nat
  marginAvg : Nat
  ranks : Vector Rank 4
  period : Nat
  serial : BitVec 8
  due : Millis
  deriving DecidableEq, Repr

/-- The beacon record's states with the deadlines each holds (03, section 3.4). -/
inductive Beacon where
  | stopped
  | waiting (due : Millis)
  | due (replacement : Millis)
  | backoff (deadline replacement : Millis)
  | inAttempt (replacement : Millis)
  deriving DecidableEq, Repr

/-- Discipline and target of a message (R4): one anchor, or one zone with 0 for all. -/
inductive Goal where
  | upward (anchor : Fin 4)
  | spread (zone : Byte)
  deriving DecidableEq, Repr

/-- Seen statuses (04, section 4.2). -/
inductive SeenStatus where
  | pending
  | relayed
  | suppressed
  | hushed
  | abandoned
  | dropped
  | delivered
  deriving DecidableEq, Repr

/-- A seen entry (R59). -/
structure Seen where
  ident : Ident
  goal : Goal
  status : SeenStatus
  extraCopies : Nat
  bestRank : Option Rank
  hushCount : Nat
  deriving DecidableEq, Repr

/-- Hold states (05, section 5.1). -/
inductive HoldState where
  | holding
  | ready
  | assessing
  | sending
  | awaitingEcho
  deriving DecidableEq, Repr

/-- A hold entry (05, section 5.1). -/
structure Hold where
  ident : Ident
  goal : Goal
  dest : Address
  hops : BitVec 5
  senderRank : Option Rank
  length : Nat
  chain : List Block
  state : HoldState
  deadline : Millis
  attempts : Nat
  defers : Nat
  transmitRank : Option Rank
  slot : Option (Fin 4)
  deriving DecidableEq, Repr

/-- The state of the HUSH queue's head (R112). -/
inductive HushHead where
  | standing
  | backoff (deadline : Millis)
  | inAttempt
  deriving DecidableEq, Repr

/-- A delivery entry (R146). -/
structure Delivery where
  ident : Ident
  goal : Goal
  sender : Address
  hops : BitVec 5
  length : Nat
  chain : List Block
  deriving DecidableEq, Repr

/-- Drop reasons an origination slot can hold (R152). -/
inductive DropReason where
  | noRoute
  | channelBusy
  | silenced
  deriving DecidableEq, Repr

/-- Outcomes an origination slot can hold (R152). -/
inductive SlotOutcome where
  | echoed
  | sent
  | abandoned
  | dropped (reason : DropReason)
  deriving DecidableEq, Repr

/-- An origination slot (R152). -/
inductive Slot where
  | free
  | pending (serial : Serial)
  | complete (serial : Serial) (outcome : SlotOutcome) (attempts : Nat)
  deriving DecidableEq, Repr

/-- The FETCH whose payload bytes may still be going out: the cursor it began at and its clamped n (R126). -/
structure Fetching where
  start : Nat
  count : Nat
  deriving DecidableEq, Repr

/-- The indicator's alternation in AWAITING_CONFIG: its phase and the end of the 250 ms period (R173). -/
structure Alternation where
  on : Bool
  deadline : Millis
  deriving DecidableEq, Repr

/-- Survey burst states with their deadlines (10, section 10.4). -/
inductive Burst where
  | stopped
  | waiting (deadline : Millis)
  | due
  | backoff (deadline : Millis)
  | inAttempt
  | ending
  deriving DecidableEq, Repr

/-- The burst record (R174). -/
structure BurstRecord where
  count : Nat
  interval : Nat
  rate : Rate
  fill : Nat
  sent : Nat
  next : Nat
  deriving DecidableEq, Repr

/-- The survey tally (R177). -/
structure Tally where
  sender : Address
  heard : Nat
  first : BitVec 14
  last : BitVec 14
  missing : Nat
  marginAvg : Nat
  deriving DecidableEq, Repr

/-- The twelve counters (R179). -/
structure Stats where
  framesGood : Nat
  framesBad : Nat
  relayed : Nat
  suppressed : Nat
  hushed : Nat
  abandoned : Nat
  droppedNoBuffer : Nat
  droppedOther : Nat
  deliveryOverflow : Nat
  tableRefused : Nat
  hushLost : Nat
  ownEchoOrStale : Nat
  deriving DecidableEq, Repr

/-- Every counter at 0 (R179). -/
def Stats.zero : Stats := ⟨0, 0, 0, 0, 0, 0, 0, 0, 0, 0, 0, 0⟩

/-- Everything the LT-52 holds. INVENTORY.md lists each field with its rule and reset value. -/
structure State where
  /-- Time of the last command taken, in 1/96 ms (log 1). -/
  now : Time
  /-- The commands waiting, first in first out. -/
  pending : List Instr
  /-- Station state (R180). -/
  station : Station
  /-- Configuration loader (R182). -/
  loader : Loader
  /-- The accepted configuration record (R184). -/
  record : Option Record
  /-- Receiver (R8). -/
  rx : Receiver
  /-- Transmitter; `none` is IDLE (R14). -/
  tx : Option Attempt
  /-- What RFTX sends in PREAMBLE or BODY (R17). -/
  rftx : List Byte
  /-- Drive outputs RFDRV0..7 (R131). -/
  drive : Byte
  /-- Jitter generator (R20). -/
  jitter : BitVec 16
  /-- Neighbour table (R21). -/
  table : Vector (Option Neighbour) 32
  /-- Own rank vector (R43). -/
  ranks : Vector Rank 4
  /-- Beacon record (R50). -/
  beacon : Beacon
  /-- Beacon serial (R50). -/
  beaconSerial : BitVec 8
  /-- Seen list, oldest first (R60). -/
  seen : List Seen
  /-- Hold list (R73). -/
  hold : Vector (Option Hold) 16
  /-- HUSH queue, head first (R111). -/
  hushQueue : List Ident
  /-- State of the HUSH queue's head (R112). -/
  hushHead : HushHead
  /-- Bytes of the message store, canonical (R117, log 6). -/
  mem : List Host.Cell
  /-- Free list, head first (R118). -/
  free : List Block
  /-- Payload cursor (R125). -/
  cursor : Nat
  /-- Power code (R130). -/
  power : Nat
  /-- Rate level (R134). -/
  rate : Rate
  /-- Echoed streak (R136). -/
  echoed : Nat
  /-- Unechoed streak (R137). -/
  unechoed : Nat
  /-- Delivery ring, head first (R146). -/
  ring : List Delivery
  /-- Origination slots (R152). -/
  slots : Vector Slot 4
  /-- Serial counter; `none` is unseeded (R155). -/
  serial : Option Serial
  /-- Table cursor (R165). -/
  tableCursor : Fin 32
  /-- What LDO clocks out for the last command taken (R161, log 7). -/
  response : List Byte
  /-- The FETCH that may still be ended early (R126, log 7). -/
  fetching : Option Fetching
  /-- Event masks, 1 is unmasked (R170). -/
  masks : BitVec 12
  /-- Trigger modes of REACH0..3 (R162). -/
  modes : BitVec 8
  /-- Latch flags (R170). -/
  latches : BitVec 12
  /-- Event statuses (R168, R169). -/
  statuses : BitVec 12
  /-- Indicator stretch timer (R173). -/
  stretch : Option Millis
  /-- Indicator alternation in AWAITING_CONFIG (R173). -/
  alternation : Option Alternation
  /-- Survey burst state (R174). -/
  burst : Burst
  /-- Survey burst record (R174). -/
  burstRec : BurstRecord
  /-- Survey tally; `none` is empty (R177). -/
  tally : Option Tally
  /-- Statistics (R179). -/
  stats : Stats
  /-- How many free values have been taken: the model's own field (log 8). -/
  unstated : Nat
  deriving DecidableEq, Repr

/-- Reasons a step stops with a fault: none. The spec gives the part no condition that stops it; bad frames are
counted and refused commands are answered (log 22). -/
inductive Fault where
  deriving DecidableEq, Repr

/-- Reasons the model gives a command no meaning. -/
inductive Refusal where
  /-- Raised by an arm of `exec` whose command has no meaning yet; safe, since nothing can be proved of its effect. -/
  | notModelled (mnemonic : String)
  deriving DecidableEq, Repr

/-- The part right after power-on or an assertion of the reset line, RSTN still low (R181, section 11.4). -/
def State.reset : State where
  now := 0
  pending := []
  station := .loading
  loader := .held
  record := none
  rx := .off
  tx := none
  rftx := []
  drive := 0
  jitter := 1
  table := Vector.replicate 32 none
  ranks := Vector.replicate 4 4095
  beacon := .stopped
  beaconSerial := 0
  seen := []
  hold := Vector.replicate 16 none
  hushQueue := []
  hushHead := .standing
  mem := []
  free := List.finRange 96
  cursor := 0
  power := 255
  rate := .mid
  echoed := 0
  unechoed := 0
  ring := []
  slots := Vector.replicate 4 .free
  serial := none
  tableCursor := 0
  response := []
  fetching := none
  masks := 0x803
  modes := 0xFF
  latches := 0
  statuses := 0
  stretch := none
  alternation := none
  burst := .stopped
  burstRec := ⟨0, 0, .slow, 0, 0, 0⟩
  tally := none
  stats := Stats.zero
  unstated := 0

end Sys2Proof.Machine
end

