-- ==== Sys2Proof/Machine/Ops.lean ====
section
/-! DEFINITION. The named operations every block uses: time, parameters, jitter draws, the message store, saturating
counts, the lamp port's answer, and the pins that are a function of the state. The spec gives the part no exception
entry; what it does on an error is in the rows themselves. -/

namespace Sys2Proof.Machine

/-! ### Time (00_scope.md, Time; R7; log 1) -/

/-- `n` milliseconds in units of 1/96 ms. -/
def ms (n : Nat) : Time := 96 * n

/-- The duration of one bit at a rate: 1/6, 1/24 and 1/96 ms (00_scope.md, Air rates). -/
def bitTime : Rate → Time
  | .slow => 16
  | .mid => 4
  | .fast => 1

/-- The millisecond in which the present event falls (R41, R50, R74). -/
def State.nowMs (s : State) : Millis := s.now / 96

/-- The state at the time `t` of a command; time does not run backwards (log 1). -/
def State.advance (s : State) (t : Time) : State := { s with now := max s.now t }

/-! ### Small tools over a fixed number of places -/

/-- Replace the value at one place. -/
def setAt {α : Type} {n : Nat} (v : Vector α n) (i : Fin n) (x : α) : Vector α n := v.set i.1 x i.2

/-- The first element of `l` whose key is least. -/
def leastBy {α : Type} (l : List α) (key : α → Nat) : Option α :=
  l.find? fun i => l.all fun j => decide (key i ≤ key j)

/-- An increment that saturates at `limit` (00_scope.md, Numbers). -/
def satInc (limit n : Nat) : Nat := min limit (n + 1)

/-- An addition that saturates at `limit`. -/
def satAdd (limit n d : Nat) : Nat := min limit (n + d)

/-- A number clamped into `lo..hi`. -/
def clampTo (lo hi n : Nat) : Nat := max lo (min hi n)

/-! ### Parameters (R181) -/

/-- The parameters in force: the accepted record, or the defaults before one is accepted (R181). -/
def State.cfg (s : State) : Record := s.record.getD Record.default

/-- The station's own address. -/
def State.own (s : State) : Address := s.cfg.node

/-- The anchor index of a station in the ANCHOR role (R106). -/
def State.ownIndex (s : State) : Option (Fin 4) :=
  match s.cfg.role with
  | .anchor => some s.cfg.anchorIndex
  | .lamp => none

/-! ### The jitter generator (R20) -/

/-- One step of the Galois sequence with mask B400 hex (R20). -/
def jitterStep (x : BitVec 16) : BitVec 16 :=
  if x.getLsbD 0 then (x >>> 1) ^^^ 0xB400#16 else x >>> 1

/-- The state after one draw (R20). -/
def State.drawn (s : State) : State := { s with jitter := jitterStep s.jitter }

/-- The value of a draw in 0..n taken now (R20). -/
def State.drawValue (s : State) (n : Nat) : Nat := (jitterStep s.jitter).toNat % (n + 1)

/-! ### The message store (07) -/

/-- The byte at an address of the store. A byte nothing has written reads as 0 (log 6). -/
def Memory.read : List Host.Cell → Nat → Byte
  | [], _ => 0
  | (a', b') :: rest, a => if a = a' then b' else Memory.read rest a

/-- Write one byte, keeping addresses rising and zero bytes unlisted. -/
def Memory.write : List Host.Cell → Nat → Byte → List Host.Cell
  | [], a, b => if b = 0 then [] else [(a, b)]
  | (a', b') :: rest, a, b =>
    if a < a' then (if b = 0 then (a', b') :: rest else (a, b) :: (a', b') :: rest)
    else if a = a' then (if b = 0 then rest else (a, b) :: rest)
    else (a', b') :: Memory.write rest a b

/-- The canonical form of the store: rising addresses inside 0..1535 and no byte that reads the same unlisted. -/
abbrev Memory.wf (m : List Host.Cell) : Prop :=
  m.Pairwise (fun c d => c.1 < d.1) ∧ ∀ c ∈ m, c.1 < 1536 ∧ c.2 ≠ 0

/-- Write bytes at consecutive addresses. -/
def Memory.writeAll : List Host.Cell → Nat → List Byte → List Host.Cell
  | m, _, [] => m
  | m, a, b :: bs => Memory.writeAll (Memory.write m a b) (a + 1) bs

/-- The 16 bytes one block takes from the head of a payload, zero beyond its end (R117). -/
def blockBytes (payload : List Byte) : List Byte := (List.range 16).map fun p => payload.getD p 0

/-- Fill a chain with a payload, 16 bytes to a block in order (R117). -/
def fillChain : List Host.Cell → List Block → List Byte → List Host.Cell
  | m, [], _ => m
  | m, b :: bs, payload => fillChain (Memory.writeAll m (16 * b.1) (blockBytes payload)) bs (payload.drop 16)

/-- Payload byte `i` of a chain (R117). -/
def chainByte (m : List Host.Cell) (chain : List Block) (i : Nat) : Byte :=
  match chain[i / 16]? with
  | some b => Memory.read m (16 * b.1 + i % 16)
  | none => 0

/-- The payload of length `n` held in a chain, byte 0 first (R123). -/
def chainBytes (m : List Host.Cell) (chain : List Block) (n : Nat) : List Byte :=
  (List.range n).map (chainByte m chain)

/-- The number of blocks of a payload of length `n` (R117). -/
def blocksFor (n : Nat) : Nat := (n + 15) / 16

/-- Ask the store for the chain of a payload of length `n`: all of it, or NO_BUFFER (R120). -/
def State.allocate (s : State) (n : Nat) (payload : List Byte) : Option (State × List Block) :=
  if blocksFor n ≤ s.free.length then
    some ({ s with
      free := s.free.drop (blocksFor n)
      mem := fillChain s.mem (s.free.take (blocksFor n)) payload }, s.free.take (blocksFor n))
  else none

/-- Give a chain back to the tail of the free list, in chain order (R124). -/
def State.freeChain (s : State) (chain : List Block) : State := { s with free := s.free ++ chain }

/-! ### Statistics (R179) -/

/-- Change the counters. -/
def State.count (s : State) (f : Stats → Stats) : State := { s with stats := f s.stats }

/-- frames_good, four decimal digits, wraps (R12). -/
def Stats.addGood (c : Stats) : Stats := { c with framesGood := (c.framesGood + 1) % 10000 }
/-- frames_bad (R10, R12). -/
def Stats.addBad (c : Stats) : Stats := { c with framesBad := satInc 255 c.framesBad }
/-- relayed (R75). -/
def Stats.addRelayed (c : Stats) : Stats := { c with relayed := satInc 65535 c.relayed }
/-- suppressed (R75). -/
def Stats.addSuppressed (c : Stats) : Stats := { c with suppressed := satInc 65535 c.suppressed }
/-- hushed (R75). -/
def Stats.addHushed (c : Stats) : Stats := { c with hushed := satInc 65535 c.hushed }
/-- abandoned (R75). -/
def Stats.addAbandoned (c : Stats) : Stats := { c with abandoned := satInc 65535 c.abandoned }
/-- dropped_no_buffer (R83). -/
def Stats.addNoBuffer (c : Stats) : Stats := { c with droppedNoBuffer := satInc 65535 c.droppedNoBuffer }
/-- dropped_other (R75, R83). -/
def Stats.addOther (c : Stats) : Stats := { c with droppedOther := satInc 65535 c.droppedOther }
/-- delivery_overflow (R109, R147). -/
def Stats.addOverflow (c : Stats) : Stats := { c with deliveryOverflow := satInc 255 c.deliveryOverflow }
/-- table_refused (R28). -/
def Stats.addRefused (c : Stats) : Stats := { c with tableRefused := satInc 255 c.tableRefused }
/-- hush_lost (R111). -/
def Stats.addHushLost (c : Stats) : Stats := { c with hushLost := satInc 255 c.hushLost }
/-- own_echo_or_stale (R12, R66). -/
def Stats.addOwn (c : Stats) : Stats := { c with ownEchoOrStale := satInc 255 c.ownEchoOrStale }

/-! ### Hold list and neighbour table by place -/

/-- Put an entry at a hold index, or free it. -/
def State.setHold (s : State) (i : Fin 16) (e : Option Hold) : State := { s with hold := setAt s.hold i e }

/-- Put an entry in a neighbour slot, or empty it. -/
def State.setNeighbour (s : State) (i : Fin 32) (e : Option Neighbour) : State := { s with table := setAt s.table i e }

/-- The hold count, 0..16 (R73). -/
def State.holdCount (s : State) : Nat := (List.finRange 16).countP fun i => s.hold[i].isSome

/-- The lowest free hold index (R73). -/
def State.freeIndex (s : State) : Option (Fin 16) := (List.finRange 16).find? fun i => s.hold[i].isNone

/-- The hold index of an identity; there is at most one (R64). -/
def State.findHold (s : State) (id : Ident) : Option (Fin 16) :=
  (List.finRange 16).find? fun i => s.hold[i].any fun e => e.ident = id

/-! ### The lamp port's answer (R161) -/

/-- The result byte and response bytes of a command taken. A new transaction ends the FETCH before it. -/
def State.answer (s : State) (bytes : List Byte) : State := { s with response := bytes, fetching := none }

/-! ### Pins -/

/-- Whether an attempt is past ASSESSING: SETTLING, PREAMBLE or BODY. -/
def Attempt.pastAssessing (a : Attempt) : Bool :=
  match a.phase with
  | .assessing => false
  | .settling => true
  | .preamble => true
  | .body => true

/-- RFTXON: set for transmit from SETTLING to the end of BODY (R131). -/
def State.rftxon (s : State) : Bool := s.tx.any Attempt.pastAssessing

/-- RFEN: asserted while the receiver is on and from SETTLING to the end of BODY (R8). -/
def State.rfen (s : State) : Bool := s.rx ≠ .off || s.rftxon

/-- ATTN: asserted while any status is set (R172). -/
def State.attn (s : State) : Bool := s.statuses ≠ 0

/-- IND: on, by station state and indicator mode (R173). -/
def State.ind (s : State) : Bool :=
  match s.station with
  | .loading => false
  | .awaitingConfig => s.alternation.any fun a => a.on
  | .running | .silent =>
    match s.cfg.indicatorMode with
    | .off => false
    | .reach => s.ranks[0] ≠ 4095#12
    | .activity => s.stretch.isSome
    | .combined => s.ranks[0] ≠ 4095#12 && s.stretch.isNone

end Sys2Proof.Machine
end

