-- ==== Sys2Proof/Machine/Operands.lean ====
section
/-! DEFINITION. Every operand form: the air layouts and the frame check (R1 to R6), received bits (R10) and margins (R11), the
configuration record and its clamping (R183), and the number formats of the lamp port (R161, R162). -/

namespace Sys2Proof.Machine

/-! ### Air layouts (R1 to R5) -/

/-- The bits of a field, most-significant first (R1). -/
def msbBits {n : Nat} (x : BitVec n) : List Bool := (List.range n).map fun i => x.getMsbD i

/-- The bits of a payload, each byte most-significant bit first (R1). -/
def payloadBits (payload : List Byte) : List Bool := payload.flatMap fun b => msbBits b

/-- The discipline bit (R4). -/
def disciplineBit : Discipline → BitVec 1
  | .upward => 0
  | .spread => 1

/-- A BEACON header, 80 bits, kind 0 (R3). -/
def beaconBits (h : BeaconHeader) : List Bool :=
  msbBits (0#2) ++ msbBits h.serial ++ msbBits h.period ++ msbBits h.sender
    ++ msbBits h.rank0 ++ msbBits h.rank1 ++ msbBits h.rank2 ++ msbBits h.rank3

/-- A CARRY header, 95 bits and the pad bit, kind 1 (R4). -/
def carryBits (h : CarryHeader) : List Bool :=
  msbBits (1#2) ++ msbBits (disciplineBit h.discipline) ++ msbBits h.target ++ msbBits h.hops ++ msbBits h.origin
    ++ msbBits h.serial ++ msbBits h.sender ++ msbBits h.senderRank ++ msbBits h.dest ++ msbBits h.length
    ++ msbBits h.pad

/-- A HUSH header, 48 bits, kind 2 (R5). -/
def hushBits (h : HushHeader) : List Bool :=
  msbBits (2#2) ++ msbBits h.anchor ++ msbBits h.origin ++ msbBits h.serial ++ msbBits h.sender

/-- A SURVEY header, 38 bits and two pad bits, kind 3 (R5). -/
def surveyBits (h : SurveyHeader) : List Bool :=
  msbBits (3#2) ++ msbBits h.sender ++ msbBits h.sequence ++ msbBits h.fill ++ msbBits h.pad

/-- One bit through the check register, polynomial x^16 + x^12 + x^5 + 1 (R6). -/
def crcStep (c : BitVec 16) (b : Bool) : BitVec 16 :=
  if (c.msb != b) then (c <<< 1) ^^^ 0x1021#16 else c <<< 1

/-- The frame check over header and payload bits, from all ones (R6). -/
def frameCheck (bits : List Bool) : BitVec 16 := bits.foldl crcStep 0xFFFF#16

/-- The number that bits spell, first bit highest. -/
def natOfBits (bits : List Bool) : Nat := bits.foldl (fun n b => 2 * n + b.toNat) 0

/-- Eight bits as a byte, first bit highest. -/
def byteOfBits (bits : List Bool) : Byte := BitVec.ofNat 8 (natOfBits bits)

/-- The bytes of a string of bits whose length is a multiple of 8. -/
def bytesOfBits (bits : List Bool) : List Byte :=
  (List.range (bits.length / 8)).map fun i => byteOfBits ((bits.drop (8 * i)).take 8)

/-- The preamble of a frame: training units and the start mark of its rate (R2). -/
def preambleBytes (units : Nat) (rate : Rate) : List Byte :=
  List.replicate (units - 1) trainingUnit ++ [startMarkOf rate]

/-- The bytes of a frame from its first header bit to its last check bit (R1, R6). -/
def frameBytes (header : List Bool) (payload : List Byte) : List Byte :=
  bytesOfBits (header ++ payloadBits payload ++ msbBits (frameCheck (header ++ payloadBits payload)))

/-- The goal a CARRY header names: the low 2 bits of the target are the anchor index of an UPWARD frame (R4). -/
def goalOf (d : Discipline) (target : BitVec 8) : Goal :=
  match d with
  | .upward => .upward ⟨target.toNat % 4, by omega⟩
  | .spread => .spread target

/-- The discipline of a goal. -/
def Goal.discipline : Goal → Discipline
  | .upward _ => .upward
  | .spread _ => .spread

/-- The target field of a goal (R4). -/
def Goal.target : Goal → BitVec 8
  | .upward a => BitVec.ofNat 8 a.1
  | .spread z => z

/-- The goal of a received CARRY. -/
def carryGoal (h : CarryHeader) : Goal := goalOf h.discipline h.target

/-- The sender rank handed on: present for UPWARD alone (R4). -/
def carryRank (h : CarryHeader) : Option Rank :=
  match h.discipline with
  | .upward => some h.senderRank
  | .spread => none

/-- The identity a CARRY names. -/
def carryIdent (h : CarryHeader) : Ident := ⟨h.origin, h.serial⟩

/-- The first two cases of R10: a payload length above 112, or UPWARD with non-zero high target bits. -/
def carryMalformed (h : CarryHeader) : Bool :=
  decide (112 < h.length.toNat) || (decide (h.discipline = .upward) && decide (4 ≤ h.target.toNat))

/-- A received beacon period, clamped to 2..60 (R3). -/
def periodOf (p : BitVec 6) : Nat := clampTo 2 60 p.toNat

/-- The rank vector a BEACON advertises (R3). -/
def beaconRanks (h : BeaconHeader) : Vector Rank 4 := #v[h.rank0, h.rank1, h.rank2, h.rank3]

/-- An address that names no station: 0 or 65535 (R12). -/
def noStation (a : Address) : Bool := a = 0#16 || a = 65535#16

/-- The run of bit times below receiver sensitivity after one more reading; at 8 the frame is lost and stays so (R10). -/
def belowRun (run : Nat) (level : Int) : Nat := if run = 8 then 8 else if level < 0 then run + 1 else 0

/-- A frame is lost: 8 consecutive readings, one a bit time, are below receiver sensitivity (R10, log 16). -/
def lostLevel (levels : List Int) : Bool := levels.foldl belowRun 0 = 8

/-- A frame was lost before its last check bit was in: the last reading is that bit's own, and a run that it completes
comes with the bit, not before it (R10, log 24). -/
def lostBeforeEnd (levels : List Int) : Bool := lostLevel levels.dropLast

/-- The mean of level readings, in thousandths of a dB, rounded down (R11, log 16). -/
def meanLevel (levels : List Int) : Int := levels.sum / (levels.length : Int)

/-- The margin of a frame: the mean of its level readings in whole dB, rounded down, clamped to 0..63 (R11). The two
roundings down are the one of R11, since floor(floor(x) / 1000) is floor(x / 1000). -/
def marginOf (levels : List Int) : Nat := min 63 (meanLevel levels / 1000).toNat

/-! ### Received bits (R1 to R6, R10) -/

/-- The kinds of frame, by the first two header bits (R1). -/
inductive FrameKind where
  | beacon
  | carry
  | hush
  | survey
  deriving DecidableEq, Repr

/-- The kind that the bits received so far give, once the first two are in (R1, R10). -/
def frameKind : List Bool → Option FrameKind
  | false :: false :: _ => some .beacon
  | false :: true :: _ => some .carry
  | true :: false :: _ => some .hush
  | true :: true :: _ => some .survey
  | [] => none
  | [_] => none

/-- The bytes of a header, its pad bits included (R1). -/
def FrameKind.headerBytes : FrameKind → Nat
  | .beacon => 10
  | .carry => 12
  | .hush => 6
  | .survey => 5

/-- The field of `w` bits at an offset (R1). -/
def readField (w offset : Nat) (bits : List Bool) : BitVec w := BitVec.ofNat w (natOfBits ((bits.drop offset).take w))

/-- The payload bytes the frame states: a CARRY's once its payload length field is complete, a SURVEY's once its fill
length field is (R4, R5, R10). -/
def FrameKind.payloadBytes (bits : List Bool) : FrameKind → Option Nat
  | .beacon => some 0
  | .carry => if 95 ≤ bits.length then some (readField 7 88 bits).toNat else none
  | .hush => some 0
  | .survey => if 38 ≤ bits.length then some (readField 6 32 bits).toNat else none

/-- The number of bit times of a frame from its first header bit to its last check bit, `n` bytes of header and payload
(R6, R7). -/
def frameBitTimes (n : Nat) : Nat := 8 * (n + 2)

/-- The kind of a frame whose last check bit is the last of `bits` (R10). -/
def wholeFrame (bits : List Bool) : Option FrameKind :=
  (frameKind bits).bind fun k => (k.payloadBytes bits).bind fun n =>
    if bits.length = frameBitTimes (k.headerBytes + n) then some k else none

/-- The BEACON header of received bits (R3). -/
def readBeacon (bits : List Bool) : BeaconHeader where
  serial := readField 8 2 bits
  period := readField 6 10 bits
  sender := readField 16 16 bits
  rank0 := readField 12 32 bits
  rank1 := readField 12 44 bits
  rank2 := readField 12 56 bits
  rank3 := readField 12 68 bits

/-- The CARRY header of received bits (R4). -/
def readCarry (bits : List Bool) : CarryHeader where
  discipline := if readField 1 2 bits = 0 then .upward else .spread
  target := readField 8 3 bits
  hops := readField 5 11 bits
  origin := readField 16 16 bits
  serial := readField 12 32 bits
  sender := readField 16 44 bits
  senderRank := readField 12 60 bits
  dest := readField 16 72 bits
  length := readField 7 88 bits
  pad := readField 1 95 bits

/-- The HUSH header of received bits (R5). -/
def readHush (bits : List Bool) : HushHeader where
  anchor := readField 2 2 bits
  origin := readField 16 4 bits
  serial := readField 12 20 bits
  sender := readField 16 32 bits

/-- The SURVEY header of received bits (R5). -/
def readSurvey (bits : List Bool) : SurveyHeader where
  sender := readField 16 2 bits
  sequence := readField 14 18 bits
  fill := readField 6 32 bits
  pad := readField 2 38 bits

/-- The payload of a whole frame: the bytes between header and check (R1). -/
def FrameKind.payload (k : FrameKind) (bits : List Bool) : List Byte :=
  bytesOfBits ((bits.drop (8 * k.headerBytes)).take (bits.length - 8 * k.headerBytes - 16))

/-- The event of a whole frame's last check bit (R10, R13). -/
def FrameKind.received (k : FrameKind) (t : Time) (bits : List Bool) (levels : List Int) : Instr :=
  let check := readField 16 (bits.length - 16) bits
  match k with
  | .beacon => .beaconReceived t (readBeacon bits) check levels
  | .carry => .carryReceived t (readCarry bits) (k.payload bits) check levels
  | .hush => .hushReceived t (readHush bits) check levels
  | .survey => .surveyReceived t (readSurvey bits) (k.payload bits) check levels

/-! ### The lamp port's numbers (R161, R162) -/

/-- The result values (R162). -/
inductive Result where
  | ok
  | notReady
  | badState
  | badCommand
  | badArgument
  | full
  | noBuffer
  | noRoute
  | empty
  | silent
  deriving DecidableEq, Repr

/-- The result byte (R162). -/
def Result.code : Result → Byte
  | .ok => 0x00
  | .notReady => 0x01
  | .badState => 0x02
  | .badCommand => 0x03
  | .badArgument => 0x04
  | .full => 0x05
  | .noBuffer => 0x06
  | .noRoute => 0x07
  | .empty => 0x08
  | .silent => 0x09

/-- A number in `k` bytes, most-significant byte first (R161). -/
def bigEndian : Nat → Nat → List Byte
  | 0, _ => []
  | k + 1, n => BitVec.ofNat 8 (n / 256 ^ k) :: bigEndian k n

/-- One byte. -/
def byteOf (n : Nat) : Byte := BitVec.ofNat 8 n

/-- The codes 0 SLOW, 1 MID, 2 FAST (R162, 11.2). -/
def rateCode : Rate → Nat
  | .slow => 0
  | .mid => 1
  | .fast => 2

/-- A rate code; above 2 it is FAST (R174, R183). -/
def rateOf : Nat → Rate
  | 0 => .slow
  | 1 => .mid
  | _ => .fast

/-- The discipline codes 0 UPWARD, 1 SPREAD (R162). -/
def disciplineCode : Discipline → Nat
  | .upward => 0
  | .spread => 1

/-- The station state codes (R162). -/
def Station.code : Station → Nat
  | .loading => 0
  | .awaitingConfig => 1
  | .running => 2
  | .silent => 3

/-- The neighbour state codes; 0 is ABSENT (R162). -/
def Standing.code : Standing → Nat
  | .candidate => 1
  | .up => 2
  | .silent => 3

/-- The outcome codes; 0 is none (R162). -/
def SlotOutcome.code : SlotOutcome → Nat
  | .echoed => 1
  | .sent => 2
  | .abandoned => 3
  | .dropped _ => 4

/-- The drop reason codes; 0 is none (R162). -/
def SlotOutcome.reasonCode : SlotOutcome → Nat
  | .dropped .noRoute => 1
  | .dropped .channelBusy => 2
  | .dropped .silenced => 3
  | .echoed => 0
  | .sent => 0
  | .abandoned => 0

/-- Four decimal digits, one per half-byte, thousands first (R179). -/
def bcd4 (n : Nat) : Nat := n / 1000 % 10 * 4096 + n / 100 % 10 * 256 + n / 10 % 10 * 16 + n % 10

/-- The history marks of READ_TABLE: newest in bit 15, 1 for HEARD (R162). -/
def marksWord (h : List Mark) : Nat :=
  (List.range 16).foldl (fun w i => 2 * w + (if h[i]? = some .heard then 1 else 0)) 0

/-- FETCH's n: 0 is read as 1, above 64 as 64 (R166). -/
def fetchCount (n : Byte) : Nat := clampTo 1 64 n.toNat

/-! ### The configuration record (11.2, R183) -/

/-- The offset, least and greatest value of every field that is clamped on its own (11.2). -/
def fieldRanges : List (Nat × Nat × Nat) :=
  [(3, 0, 1), (4, 0, 3), (9, 2, 60), (10, 1, 7), (11, 2, 15), (12, 0, 30), (13, 1, 31), (14, 0, 255), (15, 0, 15),
   (16, 1, 7), (17, 0, 3), (18, 1, 31), (19, 1, 8)]
  ++ [(20, 0, 63), (21, 1, 15), (22, 0, 2), (23, 0, 2), (24, 2, 7), (25, 4, 31), (26, 0, 255), (27, 0, 255),
   (28, 1, 32), (29, 2, 32), (30, 0, 31), (36, 0, 3), (37, 0, 3)]

/-- The value of the field at an offset, clamped on its own (R183). -/
def fieldAt (bytes : Nat → Byte) (offset : Nat) : Nat :=
  match fieldRanges.find? fun r => r.1 = offset with
  | some (_, lo, hi) => clampTo lo hi (bytes offset).toNat
  | none => (bytes offset).toNat

/-- Two bytes, most-significant first. -/
def wordAt (bytes : Nat → Byte) (offset : Nat) : BitVec 16 := bytes offset ++ bytes (offset + 1)

/-- The codes of the indicator mode. -/
def indicatorModeOf : Nat → IndicatorMode
  | 0 => .off
  | 1 => .reach
  | 2 => .activity
  | _ => .combined

/-- The codes of STRETCH, in ms. -/
def stretchOf : Nat → Nat
  | 0 => 50
  | 1 => 100
  | 2 => 200
  | _ => 400

/-- The node address of a record (offsets 1 and 2). -/
def recordNode (bytes : Nat → Byte) : Address := wordAt bytes 1

/-- The clamped record: every field on its own, then the three conflict clamps (R183). -/
def recordOf (bytes : Nat → Byte) : Record where
  node := recordNode bytes
  role := if fieldAt bytes 3 = 0 then .lamp else .anchor
  anchorIndex := ⟨fieldAt bytes 4 % 4, by omega⟩
  zone1 := bytes 5
  zone2 := bytes 6
  zone3 := bytes 7
  zone4 := bytes 8
  beaconPeriod := fieldAt bytes 9
  upAfter := fieldAt bytes 10
  downAfter := fieldAt bytes 11
  marginMin := fieldAt bytes 12
  holdMin := fieldAt bytes 13
  holdSpan := fieldAt bytes 14
  jitter := fieldAt bytes 15
  spreadQuota := fieldAt bytes 16
  retryLimit := fieldAt bytes 17
  maxHops := fieldAt bytes 18
  ccaMs := fieldAt bytes 19
  busyLevel := fieldAt bytes 20
  preambleUnits := fieldAt bytes 21
  startRate := rateOf (min (fieldAt bytes 22) (fieldAt bytes 23))
  maxRate := rateOf (fieldAt bytes 23)
  downshiftAfter := fieldAt bytes 24
  upshiftAfter := fieldAt bytes 25
  powerFloor := min (fieldAt bytes 26) (fieldAt bytes 27)
  powerCeiling := fieldAt bytes 27
  powerStep := fieldAt bytes 28
  denseAbove := fieldAt bytes 29
  sparseBelow := min (fieldAt bytes 30) (fieldAt bytes 29 - 1)
  eventMasks := (wordAt bytes 31).setWidth 12
  triggerModes := bytes 33
  latchFlags := (wordAt bytes 34).setWidth 12
  indicatorMode := indicatorModeOf (fieldAt bytes 36)
  stretch := stretchOf (fieldAt bytes 37)

/-- How many clamps a record counts (R183). -/
def clampCount (bytes : Nat → Byte) : Nat :=
  (fieldRanges.countP fun r => fieldAt bytes r.1 ≠ (bytes r.1).toNat)
    + (if fieldAt bytes 27 < fieldAt bytes 26 then 1 else 0)
    + (if fieldAt bytes 29 ≤ fieldAt bytes 30 then 1 else 0)
    + (if fieldAt bytes 23 < fieldAt bytes 22 then 1 else 0)

/-- The record bytes CONFIGURE carries: argument byte i is record offset i + 1 (11.2). -/
def configureBytes (args : List Byte) (offset : Nat) : Byte := args.getD (offset - 1) 0

/-- The record bytes of the memory read: what the memory does not drive reads as FF hex (R182). -/
def memoryBytes (driven : List Byte) (offset : Nat) : Byte := driven.getD offset 0xFF

end Sys2Proof.Machine
end

