-- ==== Sys2Proof/Machine/Flags.lean ====
section
/-! DEFINITION. The event unit (10.3): conditions, transitions, statuses. Bit numbers are those of R162. -/

namespace Sys2Proof.Machine

/-- One bit of an event word, if it is set. -/
def bitIf (c : Bool) (i : Nat) : BitVec 12 := if c then BitVec.twoPow 12 i else 0#12

/-- A REACH trigger mode: 0 LEVEL, 1 LOSS, 2 GAIN, 3 EITHER (R162). -/
def triggerMode (modes : BitVec 8) (a : Fin 4) : BitVec 2 := modes.extractLsb' (2 * a.1) 2

/-- The sources that are level sources: DELIVERY, ORIGIN_DONE, BUFFER_LOW, and REACH in mode LEVEL (10.3). -/
def levelWord (modes : BitVec 8) : BitVec 12 :=
  0x007#12 ||| bitIf (triggerMode modes 0 = 0#2) 3 ||| bitIf (triggerMode modes 1 = 0#2) 4
    ||| bitIf (triggerMode modes 2 = 0#2) 5 ||| bitIf (triggerMode modes 3 = 0#2) 6

/-- Whether a slot is COMPLETE. -/
def Slot.isComplete : Slot → Bool
  | .free => false
  | .pending _ => false
  | .complete _ _ _ => true

/-- DELIVERY: the ring holds at least one entry (R150). -/
def State.deliveryHolds (s : State) : Bool := !s.ring.isEmpty

/-- ORIGIN_DONE: at least one slot is COMPLETE (R159). -/
def State.originDoneHolds (s : State) : Bool := (List.finRange 4).any fun k => (s.slots[k]).isComplete

/-- BUFFER_LOW: fewer than 8 blocks are free (R127). -/
def State.bufferLowHolds (s : State) : Bool := decide (s.free.length < 8)

/-- The condition of REACH<a> in mode LEVEL: the rank is 4095 (R49). -/
def State.unreachable (s : State) (a : Fin 4) : Bool := s.ranks[a] = 4095#12

/-- The level conditions as they stand, one bit a source. -/
def State.conditionWord (s : State) : BitVec 12 :=
  bitIf s.deliveryHolds 0 ||| bitIf s.originDoneHolds 1 ||| bitIf s.bufferLowHolds 2
    ||| bitIf (s.unreachable 0) 3 ||| bitIf (s.unreachable 1) 4 ||| bitIf (s.unreachable 2) 5
    ||| bitIf (s.unreachable 3) 6

/-- The statuses after an event. A masked source is at 0 (R170). An unlatched level source follows its condition, a
latched one is set by it and keeps what it had, a transition source keeps what it had (R168, R169). -/
def State.settle (s : State) : State :=
  { s with statuses := s.masks &&&
      ((s.statuses &&& (~~~(levelWord s.modes) ||| s.latches)) ||| (levelWord s.modes &&& s.conditionWord)) }

/-- The transition sources other than REACH, by bit number (R162). -/
inductive Source where
  | neighbours
  | rateChange
  | surveyDone
  | surveyHeard
  | configFault
  deriving DecidableEq, Repr

/-- The bit of a transition source (R162). -/
def Source.bit : Source → Nat
  | .neighbours => 7
  | .rateChange => 8
  | .surveyDone => 9
  | .surveyHeard => 10
  | .configFault => 11

/-- Report a transition: it sets the status of an unmasked source and is lost at a masked one (R168). -/
def State.report (s : State) (src : Source) : State :=
  { s with statuses := s.statuses ||| (s.masks &&& bitIf true src.bit) }

/-- Report a loss or gain of anchor `a`: taken as the trigger mode says (R48, R168). -/
def State.reportReach (s : State) (a : Fin 4) (gain : Bool) : State :=
  { s with statuses := s.statuses ||| (s.masks &&&
      bitIf (if gain then (triggerMode s.modes a).getLsbD 1 else (triggerMode s.modes a).getLsbD 0) (3 + a.1)) }

/-- Clear the selected statuses: transitions and latched levels go, unlatched levels stay (R169, R171). -/
def State.clearStatuses (s : State) (selection : BitVec 12) : State :=
  { s with statuses := s.statuses &&& (~~~selection ||| (levelWord s.modes &&& ~~~s.latches)) }

/-- The REACH sources whose trigger mode differs between two settings, one bit a source. -/
def changedReach (old new : BitVec 8) : BitVec 12 :=
  bitIf (triggerMode old 0 ≠ triggerMode new 0) 3 ||| bitIf (triggerMode old 1 ≠ triggerMode new 1) 4
    ||| bitIf (triggerMode old 2 ≠ triggerMode new 2) 5 ||| bitIf (triggerMode old 3 ≠ triggerMode new 3) 6

/-- Write masks, trigger modes and latch flags of all sources at once. A masked source loses its status, and so does
a REACH source whose mode changes; `settle` then takes level sources from their conditions (R170). -/
def State.writeEvents (s : State) (masks : BitVec 12) (modes : BitVec 8) (latches : BitVec 12) : State :=
  { s with
    statuses := s.statuses &&& masks &&& ~~~(changedReach s.modes modes)
    masks := masks
    modes := modes
    latches := latches }

end Sys2Proof.Machine
end

