-- ==== Sys2Proof/Machine/Neighbours.lean ====
section
/-! DEFINITION. The neighbour table (02) and the rank unit's recompute (03): what a beacon, another frame and a due
timer do to an entry, and the ranks formed from the table. -/

namespace Sys2Proof.Machine

/-! ### History, link quality, margin (R23 to R25, R42) -/

/-- Add one mark at the head; the oldest of 16 leaves at the tail (R23). -/
def addMark (m : Mark) (h : List Mark) : List Mark := (m :: h).take 16

/-- Add `n` MISSED marks one after another (R23). -/
def addMissed : Nat → List Mark → List Mark
  | 0, h => h
  | n + 1, h => addMissed n (addMark .missed h)

/-- LQ = min(255, 16 × H) with H the HEARD marks (R24). -/
def linkQuality (h : List Mark) : Nat := min 255 (16 * h.count .heard)

/-- The link cost of a link quality, 8..31 (R42). -/
def linkCost (lq : Nat) : Nat := 8 + (255 - lq) * 3 / 32

/-- The smoothed margin after a frame (R25). -/
def smoothed (old new : Nat) : Nat := (3 * old + new) / 4

/-! ### Ranks (R36, R44, R45, R48) -/

/-- Whether an entry is usable toward anchor `a` (R36). -/
def usable (cfg : Record) (a : Fin 4) (n : Neighbour) : Bool :=
  decide (n.standing ≠ .candidate) && decide (cfg.marginMin ≤ n.marginAvg) && decide (n.ranks[a] ≠ 4095#12)

/-- The rank a neighbour gives toward `a`: advertised rank plus link cost, saturated at 4095 (R44). -/
def rankThrough (a : Fin 4) (n : Neighbour) : Nat := min 4095 (n.ranks[a].toNat + linkCost (linkQuality n.history))

/-- The sums over the neighbours usable toward `a` (R44). -/
def State.rankSums (s : State) (a : Fin 4) : List Nat :=
  (s.table.toList.filterMap id).filterMap fun n => if usable s.cfg a n then some (rankThrough a n) else none

/-- The own rank toward `a`: 0 at an anchor's own index, else the least sum, or 4095 (R44, R47). -/
def State.formedRank (s : State) (a : Fin 4) : Rank :=
  if s.ownIndex = some a then 0 else BitVec.ofNat 12 ((s.rankSums a).foldl min 4095)

/-- The vector formed from the table as it stands (R44). -/
def State.formedRanks (s : State) : Vector Rank 4 :=
  #v[s.formedRank 0, s.formedRank 1, s.formedRank 2, s.formedRank 3]

/-- Report a loss or a gain for `a` where the rank crosses 4095 (R48). -/
def State.reportRankChange (s : State) (a : Fin 4) (old new : Rank) : State :=
  if old ≠ 4095#12 ∧ new = 4095#12 then s.reportReach a false
  else if old = 4095#12 ∧ new ≠ 4095#12 then s.reportReach a true
  else s

/-- The recompute of all four ranks at a refresh, with its transitions (R45, R48). -/
def State.recompute (s : State) : State :=
  let new := s.formedRanks
  let told := (List.finRange 4).foldl (fun st a => st.reportRankChange a s.ranks[a] new[a]) s
  { told with ranks := new }

/-! ### Entries (R26 to R35) -/

/-- The slot of a sender's entry (R21). -/
def State.findNeighbour (s : State) (address : Address) : Option (Fin 32) :=
  (List.finRange 32).find? fun i => s.table[i].any fun n => n.address = address

/-- The lowest-numbered empty slot (R26). -/
def State.emptySlot (s : State) : Option (Fin 32) := (List.finRange 32).find? fun i => s.table[i].isNone

/-- The replacement victim: the CANDIDATE or SILENT entry of lowest LQ, lowest slot first (R27). -/
def State.victim (s : State) : Option (Fin 32) :=
  leastBy ((List.finRange 32).filter fun i => s.table[i].any fun n => n.standing ≠ .up)
    fun i => match s.table[i] with
      | some n => linkQuality n.history
      | none => 0

/-- The count U of UP entries (R39). -/
def State.upCount (s : State) : Nat :=
  (List.finRange 32).countP fun i => s.table[i].any fun n => n.standing = .up

/-- The entry made for an unknown sender (R26). -/
def State.newNeighbour (s : State) (h : BeaconHeader) (margin : Nat) : Neighbour where
  address := h.sender
  standing := if s.cfg.upAfter = 1 then .up else .candidate
  history := [.heard]
  heardStreak := 1
  missStreak := 0
  missesNoted := 0
  marginAvg := margin
  ranks := beaconRanks h
  period := periodOf h.period
  serial := h.serial
  due := s.nowMs + 1500 * periodOf h.period

/-- Make the entry in a slot; an entry made UP reports NEIGHBOURS; one refresh (R26, R37, R38). -/
def State.seatNeighbour (s : State) (i : Fin 32) (h : BeaconHeader) (margin : Nat) : State :=
  let n := s.newNeighbour h margin
  let s1 := s.setNeighbour i (some n)
  (if n.standing = .up then s1.report .neighbours else s1).recompute

/-- Remove an entry; the removal of an UP or SILENT one reports NEIGHBOURS (R34). The refresh is the caller's. -/
def State.removeNeighbour (s : State) (i : Fin 32) : State :=
  match s.table[i] with
  | none => s
  | some n => if n.standing = .candidate then s.setNeighbour i none else (s.setNeighbour i none).report .neighbours

/-- A beacon from an unknown sender (R26 to R28). -/
def State.unknownBeacon (s : State) (h : BeaconHeader) (margin : Nat) : State :=
  match s.emptySlot with
  | some i => s.seatNeighbour i h margin
  | none =>
    match s.victim with
    | some i => (s.removeNeighbour i).seatNeighbour i h margin
    | none => s.count Stats.addRefused

/-- The entry after a beacon that repeats its serial (R30, g = 0). -/
def Neighbour.repeated (n : Neighbour) (h : BeaconHeader) (margin : Nat) : Neighbour :=
  { n with ranks := beaconRanks h, marginAvg := smoothed n.marginAvg margin }

/-- Steps 1 to 6 of R30 for a gap g of 1..255. -/
def Neighbour.heardAgain (n : Neighbour) (g : Nat) (h : BeaconHeader) (margin : Nat) (nowMs : Millis) : Neighbour :=
  { n with
    history := addMark .heard (addMissed (g - 1 - n.missesNoted) n.history)
    missesNoted := 0
    missStreak := 0
    heardStreak := satInc 7 n.heardStreak
    marginAvg := smoothed n.marginAvg margin
    ranks := beaconRanks h
    period := periodOf h.period
    serial := h.serial
    due := nowMs + 1500 * periodOf h.period }

/-- The state update after a beacon (R31). -/
def Neighbour.promoted (n : Neighbour) (upAfter : Nat) : Neighbour :=
  match n.standing with
  | .candidate => if upAfter ≤ n.heardStreak then { n with standing := .up } else n
  | .silent => { n with standing := .up }
  | .up => n

/-- A beacon from a known neighbour in slot `i` (R30, R31, R37, R38). -/
def State.knownBeacon (s : State) (i : Fin 32) (n : Neighbour) (h : BeaconHeader) (margin : Nat) : State :=
  let g := (h.serial - n.serial).toNat
  if g = 0 then
    let n' := n.repeated h margin
    if n' = n then s else (s.setNeighbour i (some n')).recompute
  else
    let n' := (n.heardAgain g h margin s.nowMs).promoted s.cfg.upAfter
    let s1 := s.setNeighbour i (some n')
    (if n.standing ≠ .up ∧ n'.standing = .up then s1.report .neighbours else s1).recompute

/-- A good BEACON at the table (R21, R26 to R31). -/
def State.takeBeacon (s : State) (h : BeaconHeader) (margin : Nat) : State :=
  match s.findNeighbour h.sender with
  | none => s.unknownBeacon h margin
  | some i =>
    match s.table[i] with
    | none => s
    | some n => s.knownBeacon i n h margin

/-- A good CARRY or HUSH at the table: the margin of a known sender, nothing else (R35, R37). -/
def State.takeMargin (s : State) (sender : Address) (margin : Nat) : State :=
  match s.findNeighbour sender with
  | none => s
  | some i =>
    match s.table[i] with
    | none => s
    | some n =>
      if smoothed n.marginAvg margin = n.marginAvg then s
      else (s.setNeighbour i (some { n with marginAvg := smoothed n.marginAvg margin })).recompute

/-- Steps 1 to 3 of R33. -/
def Neighbour.missedOne (n : Neighbour) (nowMs : Millis) : Neighbour :=
  { n with
    history := addMark .missed n.history
    missesNoted := satInc 15 n.missesNoted
    missStreak := satInc 15 n.missStreak
    heardStreak := 0
    due := nowMs + 1000 * n.period
    standing := match n.standing with
      | .up => .silent
      | .candidate => .candidate
      | .silent => .silent }

/-- The expiry of the due timer of the entry `n` in slot `i` (R33, R34, R37). -/
def State.missBeacon (s : State) (i : Fin 32) (n : Neighbour) : State :=
  let n' := n.missedOne s.nowMs
  if n.standing ≠ .up ∧ s.cfg.downAfter ≤ n'.missStreak then (s.removeNeighbour i).recompute
  else (s.setNeighbour i (some n')).recompute

end Sys2Proof.Machine
end

