-- ==== Sys2Proof/Machine/Relay.lean ====
section
/-! DEFINITION. The seen list (04), the relay engine's hold list (05), the anchor responder (06), rate control (08),
the delivery ring and the origination slots (09): the operations the rows share. -/

namespace Sys2Proof.Machine

/-! ### The seen list (04) -/

/-- The entry of an identity (R60). -/
def State.findSeen (s : State) (id : Ident) : Option Seen := s.seen.find? fun e => e.ident = id

/-- Insert at the tail; a full list first evicts its oldest entry not PENDING (R62). -/
def State.insertSeen (s : State) (e : Seen) : State :=
  { s with seen :=
      (if 64 ≤ s.seen.length then s.seen.eraseP fun x => x.status ≠ .pending else s.seen) ++ [e] }

/-- Change the entry of an identity in its place. -/
def State.updateSeen (s : State) (id : Ident) (f : Seen → Seen) : State :=
  { s with seen := s.seen.map fun e => if e.ident = id then f e else e }

/-- A PENDING entry takes a settled status; a settled one keeps its own (R61). -/
def Seen.settleAs (status : SeenStatus) (e : Seen) : Seen :=
  if e.status = .pending then { e with status := status } else e

/-- The entry after a copy: one more extra copy, and the lower rank where both are UPWARD with one target (R67). -/
def Seen.heardCopy (goal : Goal) (rank : Option Rank) (e : Seen) : Seen :=
  let counted := { e with extraCopies := satInc 7 e.extraCopies }
  match goal, rank with
  | .upward _, some r =>
    if e.goal = goal then
      { counted with bestRank := some (match e.bestRank with
          | some b => if r.toNat < b.toNat then r else b
          | none => r) }
    else counted
  | .upward _, none => counted
  | .spread _, _ => counted

/-! ### Rate control (R136 to R138) -/

/-- One level up (00_scope.md, Air rates). -/
def rateUp : Rate → Rate
  | .slow => .mid
  | .mid => .fast
  | .fast => .fast

/-- One level down. -/
def rateDown : Rate → Rate
  | .slow => .slow
  | .mid => .slow
  | .fast => .mid

/-- An echoed outcome (R136, R138). -/
def State.echoedOutcome (s : State) : State :=
  if s.echoed + 1 < s.cfg.upshiftAfter then { s with echoed := s.echoed + 1, unechoed := 0 }
  else if rateCode s.rate < rateCode s.cfg.maxRate then
    State.report { s with echoed := 0, unechoed := 0, rate := rateUp s.rate } .rateChange
  else { s with echoed := 0, unechoed := 0 }

/-- An unechoed outcome (R137, R138). -/
def State.unechoedOutcome (s : State) : State :=
  if s.unechoed + 1 < s.cfg.downshiftAfter then { s with echoed := 0, unechoed := s.unechoed + 1 }
  else if s.rate ≠ .slow then
    State.report { s with echoed := 0, unechoed := 0, rate := rateDown s.rate } .rateChange
  else { s with echoed := 0, unechoed := 0 }

/-! ### Removal of a hold entry (R75) -/

/-- How a hold entry ends (R75). -/
inductive Ending where
  /-- SPREAD "sent" while RUNNING (R96). -/
  | sent
  /-- UPWARD echoed by a copy or a HUSH (R89). -/
  | echoed
  /-- Suppressed by a copy or at a recheck (R86, R87, R91). -/
  | suppressed
  /-- A HUSH in HOLDING or READY (R88). -/
  | hushed
  /-- The last permitted attempt drew no echo (R98). -/
  | abandoned
  /-- Dropped: an UPWARD relay no longer makes progress (R91). -/
  | staleRank
  /-- Dropped: an own UPWARD message has no route (R91). -/
  | noRoute
  /-- Dropped: the fifteenth deferral (R93). -/
  | channelBusy
  /-- Dropped: SILENCE (R100). -/
  | silenced
  deriving DecidableEq, Repr

/-- The seen status an ending sets (R61). -/
def Ending.seenStatus : Ending → SeenStatus
  | .sent => .relayed
  | .echoed => .relayed
  | .suppressed => .suppressed
  | .hushed => .hushed
  | .abandoned => .abandoned
  | .staleRank => .dropped
  | .noRoute => .dropped
  | .channelBusy => .dropped
  | .silenced => .dropped

/-- The counter an ending increments (R75). -/
def Ending.counted : Ending → Stats → Stats
  | .sent => Stats.addRelayed
  | .echoed => Stats.addRelayed
  | .suppressed => Stats.addSuppressed
  | .hushed => Stats.addHushed
  | .abandoned => Stats.addAbandoned
  | .staleRank => Stats.addOther
  | .noRoute => Stats.addOther
  | .channelBusy => Stats.addOther
  | .silenced => Stats.addOther

/-- The outcome an own message's slot takes; STALE_RANK does not reach a slot (R157). -/
def Ending.slotOutcome : Ending → Option SlotOutcome
  | .sent => some .sent
  | .echoed => some .echoed
  | .suppressed => some .echoed
  | .hushed => some .echoed
  | .abandoned => some .abandoned
  | .staleRank => none
  | .noRoute => some (.dropped .noRoute)
  | .channelBusy => some (.dropped .channelBusy)
  | .silenced => some (.dropped .silenced)

/-- Complete the origination slot a hold entry names (R157). -/
def State.completeSlot (s : State) (e : Hold) (ending : Ending) : State :=
  match e.slot, ending.slotOutcome with
  | some k, some o => { s with slots := setAt s.slots k (.complete e.ident.serial o e.attempts) }
  | some _, none => s
  | none, _ => s

/-- Remove the entry at a hold index: free its chain, settle its seen entry, count its outcome, complete its slot,
tell rate control of an echo, free the index (R75). -/
def State.removeHold (s : State) (i : Fin 16) (ending : Ending) : State :=
  match s.hold[i] with
  | none => s
  | some e =>
    let s1 := (s.freeChain e.chain).updateSeen e.ident (Seen.settleAs ending.seenStatus)
    let s2 := (s1.count ending.counted).completeSlot e ending
    let s3 := if ending = .echoed then s2.echoedOutcome else s2
    s3.setHold i none

/-! ### The arrival decision (R76 to R84) -/

/-- The progress of a received UPWARD frame; `none` where the arrival has none (R80). -/
def State.progress (s : State) (a : Fin 4) (senderRank : Rank) : Option Nat :=
  if s.ranks[a] = 4095#12 ∨ senderRank.toNat ≤ s.ranks[a].toNat then none
  else some (senderRank.toNat - s.ranks[a].toNat)

/-- The outcomes of the arrival decision (R76). -/
inductive Arrival where
  | held
  | addressedHere
  | silenced
  | hopLimit
  | noProgress
  | holdFull
  | noBuffer
  deriving DecidableEq, Repr

/-- Whether a first copy is UPWARD without progress (R80). -/
def State.lacksProgress (s : State) (h : CarryHeader) : Bool :=
  match carryGoal h with
  | .upward a => (s.progress a h.senderRank).isNone
  | .spread _ => false

/-- The checks of R76 in their order. -/
def State.arrivalOf (s : State) (h : CarryHeader) : Arrival :=
  if h.discipline = .spread ∧ h.dest = s.own then .addressedHere
  else if s.station = .silent then .silenced
  else if h.hops = 0#5 then .hopLimit
  else if s.lacksProgress h then .noProgress
  else if s.freeIndex = none then .holdFull
  else if s.free.length < blocksFor h.length.toNat then .noBuffer
  else .held

/-- The queue term of the hold-off: 2 ms for each other entry present (R84). -/
def State.queueTerm (s : State) : Nat := 2 * s.holdCount

/-- The progress term of an UPWARD relay (R84). -/
def progressTerm (holdSpan progress : Nat) : Nat := (64 - min progress 64) * holdSpan / 64

/-- The middle term of a relay's first hold-off: by progress for UPWARD, half the span for SPREAD (R84). -/
def State.relayTerm (s : State) (h : CarryHeader) : Nat :=
  match carryGoal h with
  | .upward a => progressTerm s.cfg.holdSpan ((s.progress a h.senderRank).getD 0)
  | .spread _ => s.cfg.holdSpan / 2

/-- Put a new entry at the lowest free hold index (R73). -/
def State.addHold (s : State) (e : Hold) : State :=
  match s.freeIndex with
  | some i => s.setHold i (some e)
  | none => s

/-- Hold a first copy: chain, draw, entry (R81, R82, R84). -/
def State.holdArrival (s : State) (h : CarryHeader) (payload : List Byte) : State :=
  match s.allocate h.length.toNat payload with
  | none => s
  | some (s1, chain) =>
    s1.drawn.addHold
      { ident := carryIdent h
        goal := carryGoal h
        dest := h.dest
        hops := h.hops - 1
        senderRank := carryRank h
        length := h.length.toNat
        chain := chain
        state := .holding
        deadline := s.nowMs + (s.cfg.holdMin + s.relayTerm h + s.drawValue s.cfg.jitter + s.queueTerm)
        attempts := 0
        defers := 0
        transmitRank := none
        slot := none }

/-- What the relay engine does with a first copy: hold it or count the reason (R82, R83). -/
def State.applyArrival (s : State) (h : CarryHeader) (payload : List Byte) : Arrival → State
  | .held => s.holdArrival h payload
  | .addressedHere => s
  | .silenced => s.count Stats.addOther
  | .hopLimit => s.count Stats.addOther
  | .noProgress => s.count Stats.addOther
  | .holdFull => s.count Stats.addOther
  | .noBuffer => s.count Stats.addNoBuffer

/-! ### Delivery (R144, R147) -/

/-- Whether a zone is zone 0 or one of the station's used zones (R144). -/
def zoneMatches (cfg : Record) (zone : Byte) : Bool :=
  zone = 0#8 || zone = cfg.zone1 || zone = cfg.zone2 || zone = cfg.zone3 || zone = cfg.zone4

/-- The delivery test (R144). -/
def State.deliveryTest (s : State) (h : CarryHeader) : Bool :=
  match carryGoal h with
  | .upward _ => false
  | .spread zone => zoneMatches s.cfg zone && (h.dest = 65535#16 || h.dest = s.own)

/-- Whether the ring takes an offer of this length: room first, then blocks (R147). -/
def State.ringTakes (s : State) (length : Nat) : Bool :=
  decide (s.ring.length < 8) && decide (blocksFor length ≤ s.free.length)

/-- Offer a message to the delivery ring (R147). -/
def State.offerDelivery (s : State) (h : CarryHeader) (payload : List Byte) : State :=
  if s.ring.length < 8 then
    match s.allocate h.length.toNat payload with
    | none => s.count Stats.addOverflow
    | some (s1, chain) =>
      { s1 with ring := s1.ring ++
          [{ ident := carryIdent h, goal := carryGoal h, sender := h.sender, hops := h.hops,
             length := h.length.toNat, chain := chain }] }
  else s.count Stats.addOverflow

/-! ### The anchor responder (06) -/

/-- Offer a HUSH to the queue: it joins the tail or is lost (R111, R112). -/
def State.offerHush (s : State) (id : Ident) : State :=
  if s.hushQueue.length < 4 then
    { s with
      hushQueue := s.hushQueue ++ [id]
      hushHead := if s.hushQueue = [] then .standing else s.hushHead }
  else s.count Stats.addHushLost

/-- Whether a goal is for the station's own anchor index (R106). -/
def State.forOwnIndex (s : State) (goal : Goal) : Bool :=
  match goal, s.ownIndex with
  | .upward a, some k => a = k
  | .upward _, none => false
  | .spread _, _ => false

/-- A first copy for the own index: delivered with a DELIVERED entry and a HUSH, or refused with neither
(R107 to R109). -/
def State.anchorFirstCopy (s : State) (h : CarryHeader) (payload : List Byte) : State :=
  if s.ringTakes h.length.toNat then
    ((s.offerDelivery h payload).insertSeen
      { ident := carryIdent h, goal := carryGoal h, status := .delivered, extraCopies := 0,
        bestRank := carryRank h, hushCount := 1 }).offerHush (carryIdent h)
  else s.offerDelivery h payload

/-! ### A CARRY and a HUSH at the seen list (R65 to R69) -/

/-- The status of a new seen entry (R65). -/
def arrivalStatus (arrival : Arrival) (delivered : Bool) : SeenStatus :=
  if arrival = .held then .pending else if delivered then .delivered else .dropped

/-- A first copy at a station it is not anchored at: relay engine, then delivery test, then the seen entry
(R65, R76, R121, R144). -/
def State.relayFirstCopy (s : State) (h : CarryHeader) (payload : List Byte) : State :=
  let arrival := s.arrivalOf h
  let s1 := s.applyArrival h payload arrival
  let s2 := if s.deliveryTest h then s1.offerDelivery h payload else s1
  s2.insertSeen
    { ident := carryIdent h, goal := carryGoal h,
      status := arrivalStatus arrival (s.deliveryTest h && s1.ringTakes h.length.toNat),
      extraCopies := 0, bestRank := carryRank h, hushCount := 0 }

/-- The copy's judgement against the hold entry at an index (R86, R87, R89). -/
def State.judgeCopy (s : State) (i : Fin 16) (rank : Option Rank) (extraCopies : Nat) : State :=
  match s.hold[i] with
  | none => s
  | some e =>
    match e.state with
    | .holding | .ready =>
      match e.goal with
      | .upward a =>
        if rank.any fun r => r.toNat ≤ s.ranks[a].toNat then s.removeHold i .suppressed else s
      | .spread _ => if s.cfg.spreadQuota ≤ extraCopies then s.removeHold i .suppressed else s
    | .awaitingEcho =>
      if rank.any fun r => e.transmitRank.any fun t => r.toNat < t.toNat then s.removeHold i .echoed else s
    | .assessing => s
    | .sending => s

/-- A HUSH's judgement against the hold entry at an index (R88, R89). -/
def State.judgeHush (s : State) (i : Fin 16) : State :=
  match s.hold[i] with
  | none => s
  | some e =>
    match e.state with
    | .holding | .ready => s.removeHold i .hushed
    | .awaitingEcho => s.removeHold i .echoed
    | .assessing => s
    | .sending => s

/-- A copy of a present identity, `e` its entry before the copy (R67, R68, R110). -/
def State.takeCopy (s : State) (e : Seen) (h : CarryHeader) : State :=
  let s1 := s.updateSeen e.ident (Seen.heardCopy (carryGoal h) (carryRank h))
  if e.goal = carryGoal h then
    match e.status with
    | .pending =>
      match s1.findHold e.ident with
      | some i => s1.judgeCopy i (carryRank h) (satInc 7 e.extraCopies)
      | none => s1
    | .delivered =>
      if s.forOwnIndex e.goal ∧ e.hushCount < 2 then
        (s1.updateSeen e.ident fun x => { x with hushCount := x.hushCount + 1 }).offerHush e.ident
      else s1
    | .relayed => s1
    | .suppressed => s1
    | .hushed => s1
    | .abandoned => s1
    | .dropped => s1
  else s1

/-- A good CARRY at the seen list: a copy, a stale own copy, or a first copy (R65, R66). -/
def State.takeCarry (s : State) (h : CarryHeader) (payload : List Byte) : State :=
  match s.findSeen (carryIdent h) with
  | some e => s.takeCopy e h
  | none =>
    if h.origin = s.own then s.count Stats.addOwn
    else if s.forOwnIndex (carryGoal h) then s.anchorFirstCopy h payload
    else s.relayFirstCopy h payload

/-- The identity a HUSH names. -/
def hushIdent (h : HushHeader) : Ident := ⟨h.origin, h.serial⟩

/-- A good HUSH at the seen list (R69). -/
def State.takeHush (s : State) (h : HushHeader) : State :=
  match s.findSeen (hushIdent h) with
  | some e =>
    if e.status = .pending then
      match s.findHold e.ident with
      | some i => s.judgeHush i
      | none => s
    else s
  | none =>
    s.insertSeen
      { ident := hushIdent h, goal := .upward ⟨h.anchor.toNat % 4, by omega⟩, status := .hushed,
        extraCopies := 0, bestRank := none, hushCount := 0 }

/-! ### Expiries of a hold entry (R91, R98) -/

/-- The best rank heard of an identity (R67). -/
def State.bestHeard (s : State) (id : Ident) : Option Rank := (s.findSeen id).bind fun e => e.bestRank

/-- The second test of a recheck: the best rank heard is at most the own rank toward `a` (R91). -/
def State.overtaken (s : State) (e : Hold) (a : Fin 4) : Bool :=
  (s.bestHeard e.ident).any fun b => b.toNat ≤ s.ranks[a].toNat

/-- What the recheck of an entry in HOLDING finds: an ending, or `none` where it may send (R91). -/
def State.recheck (s : State) (e : Hold) : Option Ending :=
  match e.goal with
  | .spread _ => none
  | .upward a =>
    match e.senderRank with
    | some rs =>
      if s.ranks[a].toNat < rs.toNat then (if s.overtaken e a then some .suppressed else none) else some .staleRank
    | none =>
      if s.ranks[a] = 4095#12 then some .noRoute else if s.overtaken e a then some .suppressed else none

/-- The expiry of the deadline of an entry in HOLDING (R91). -/
def State.expireHold (s : State) (i : Fin 16) (e : Hold) : State :=
  match s.recheck e with
  | some ending => s.removeHold i ending
  | none => s.setHold i (some { e with state := .ready })

/-- The expiry of the deadline of an entry in AWAITING_ECHO (R84, R98). -/
def State.expireEcho (s : State) (i : Fin 16) (e : Hold) : State :=
  let s1 := s.unechoedOutcome
  if e.attempts < s.cfg.retryLimit + 1 then
    s1.drawn.setHold i (some { e with
      state := .holding
      deadline := s.nowMs + (s.cfg.holdMin + s.drawValue s.cfg.jitter + 2 * (s.holdCount - 1)) })
  else s1.removeHold i .abandoned

/-! ### Origination (R153 to R156) -/

/-- The lowest-numbered FREE slot (R156). -/
def State.freeSlot (s : State) : Option (Fin 4) := (List.finRange 4).find? fun k => s.slots[k] = .free

/-- Whether the seen list holds an own identity as PENDING (R63). -/
def State.serialPending (s : State) (v : Serial) : Bool :=
  s.seen.any fun e => e.ident = ⟨s.own, v⟩ && e.status = .pending

/-- The first serial from `v` on whose own identity is not PENDING, within `n` further tries (R63, R155). -/
def State.searchSerial (s : State) : Nat → Serial → Serial
  | 0, v => v
  | n + 1, v => if s.serialPending v then s.searchSerial n (v + 1) else v

/-- The clamped hop budget of a SUBMIT (R154). -/
def submitHops (maxHops : Nat) (hops : Byte) : Nat := clampTo 1 maxHops hops.toNat

/-- The first check of R153 from the second on that applies; `none` where the SUBMIT is accepted. -/
def State.submitRefusal (s : State) (discipline target : Byte) (dest : Address) (length : Nat) : Option Result :=
  if 1 < discipline.toNat ∨ 112 < length ∨ (discipline = 0#8 ∧ 3 < target.toNat) ∨ dest = 0#16 then some .badArgument
  else if discipline = 0#8 ∧ s.forOwnIndex (goalOf .upward target) then some .badArgument
  else if discipline = 0#8 ∧ s.unreachable ⟨target.toNat % 4, by omega⟩ then some .noRoute
  else if s.freeSlot = none ∨ s.freeIndex = none then some .full
  else if s.free.length < blocksFor length then some .noBuffer
  else none

/-- The serial counter, seeded by one draw where it is unseeded (R155). -/
def State.seeded (s : State) : State × Serial :=
  match s.serial with
  | some v => (s, v)
  | none => (s.drawn, s.drawn.jitter.setWidth 12)

/-- An accepted SUBMIT (R156). -/
def State.acceptSubmit (s : State) (goal : Goal) (dest : Address) (hops : Byte) (payload : List Byte) : State :=
  match s.allocate payload.length payload, s.freeSlot with
  | some (s1, chain), some k =>
    let (s2, start) := s1.seeded
    let serial := s2.searchSerial 17 start
    let id : Ident := ⟨s.own, serial⟩
    let s3 := { s2 with seen := s2.seen.filter fun e => e.ident ≠ id }
    let s4 := s3.insertSeen
      { ident := id, goal := goal, status := .pending, extraCopies := 0, bestRank := none, hushCount := 0 }
    let s5 := s4.drawn.addHold
      { ident := id
        goal := goal
        dest := dest
        hops := BitVec.ofNat 5 (submitHops s.cfg.maxHops hops)
        senderRank := none
        length := payload.length
        chain := chain
        state := .holding
        deadline := s.nowMs + (s.cfg.holdMin + s4.drawValue s.cfg.jitter + s.queueTerm)
        attempts := 0
        defers := 0
        transmitRank := none
        slot := some k }
    { s5 with slots := setAt s5.slots k (.pending serial), serial := some (serial + 1) }.answer
      (Result.ok.code :: byteOf k.1 :: bigEndian 2 serial.toNat)
  | some _, none => s
  | none, _ => s

end Sys2Proof.Machine
end

