-- ==== Sys2Proof/Machine/Radio.lean ====
section
/-! DEFINITION. The radio interface (01): requests, the arbiter, deferral, the phases of an attempt, and what each
owner does with its outcome. -/

namespace Sys2Proof.Machine

/-! ### Requests (R15) -/

/-- A beacon is due and not waiting out a backoff (R15, R51). -/
def State.beaconRequests (s : State) : Bool :=
  match s.beacon with
  | .due _ => true
  | .stopped => false
  | .waiting _ => false
  | .backoff _ _ => false
  | .inAttempt _ => false

/-- The HUSH queue's head requests (R15, R112). -/
def State.hushRequests (s : State) : Bool := !s.hushQueue.isEmpty && decide (s.hushHead = .standing)

/-- Whether the entry at a hold index is READY. -/
def State.isReady (s : State) (i : Fin 16) : Bool := s.hold[i].any fun e => e.state = .ready

/-- The READY entry of earliest deadline, the lower hold index between equal ones (R15). -/
def State.readyHold (s : State) : Option (Fin 16) :=
  leastBy ((List.finRange 16).filter s.isReady) fun i => match s.hold[i] with
    | some e => e.deadline
    | none => 0

/-- A survey frame is due and not waiting out a backoff (R15, R174). -/
def State.surveyRequests (s : State) : Bool := decide (s.burst = .due)

/-- The request granted next: beacon, HUSH, READY hold entry, survey frame (R15). -/
def State.nextRequest (s : State) : Option Owner :=
  if s.beaconRequests then some .beacon
  else if s.hushRequests then some .hush
  else
    match s.readyHold with
    | some i => some (.hold i)
    | none => if s.surveyRequests then some .survey else none

/-! ### Deferral (R18, R93) -/

/-- The backoff deadline set at a busy judgement: 2 ms and a draw in 0..JITTER (R18). -/
def State.backoffDeadline (s : State) : Millis := s.nowMs + (2 + s.drawValue s.cfg.jitter)

/-- The attempt ends in a busy judgement and its owner is told "deferred" (R16, R18, R52, R93, R112, R175). -/
def State.deferOwner (s : State) (o : Owner) : State :=
  let s1 := { s with tx := none }
  match o with
  | .beacon =>
    match s.beacon with
    | .inAttempt r => { s1.drawn with beacon := .backoff s.backoffDeadline r }
    | .stopped | .waiting _ | .due _ | .backoff _ _ => s1
  | .hush => { s1.drawn with hushHead := .backoff s.backoffDeadline }
  | .hold i =>
    match s.hold[i] with
    | some e =>
      if e.defers + 1 < 15 then
        s1.drawn.setHold i (some { e with
          state := .holding, deadline := s.backoffDeadline, defers := e.defers + 1 })
      else s1.removeHold i .channelBusy
    | none => s1
  | .survey => { s1.drawn with burst := .backoff s.backoffDeadline }

/-! ### The grant (R7, R15, R16) -/

/-- The channel counts as busy: between detection and start mark, or RECEIVING (R16). -/
def Receiver.busy : Receiver → Bool
  | .off => false
  | .searching => false
  | .awaiting _ => true
  | .receiving _ => true

/-- The rate of the owner's frame, fixed at the grant (R7, R139). -/
def State.grantRate (s : State) : Owner → Rate
  | .beacon => .slow
  | .hush => .slow
  | .hold _ => s.rate
  | .survey => s.burstRec.rate

/-- The granted owner's record is marked as in attempt (R15). -/
def State.markGranted (s : State) : Owner → State
  | .beacon =>
    match s.beacon with
    | .due r => { s with beacon := .inAttempt r }
    | .stopped | .waiting _ | .backoff _ _ | .inAttempt _ => s
  | .hush => { s with hushHead := .inAttempt }
  | .hold i =>
    match s.hold[i] with
    | some e => s.setHold i (some { e with state := .assessing })
    | none => s
  | .survey => { s with burst := .inAttempt }

/-- Grant the transmitter to an owner. A receiver already busy judges the channel busy at once (R15, R16). -/
def State.grant (s : State) (o : Owner) : State :=
  let s1 := { s.markGranted o with tx := some ⟨o, s.grantRate o, .assessing, s.now + ms s.cfg.ccaMs⟩ }
  if s.rx.busy then s1.deferOwner o else s1

/-- Grant while the station is RUNNING, the transmitter IDLE and a request stands, at most `n` times (R15). -/
def State.arbitrateUpTo : Nat → State → State
  | 0, s => s
  | n + 1, s =>
    if s.station = .running ∧ s.tx = none then
      match s.nextRequest with
      | some o => State.arbitrateUpTo n (s.grant o)
      | none => s
    else s

/-- The arbiter at the end of an event. At most 19 requests can stand: one beacon, one HUSH, 16 hold entries, one
survey frame; each grant that ends at once takes its request away (R15, R18). -/
def State.arbitrate (s : State) : State := State.arbitrateUpTo 19 s

/-- The end of an event: the arbiter grants, then the event unit takes the conditions as they stand. -/
def State.finish (s : State) : State := s.arbitrate.settle

/-- A busy judgement during ASSESSING (R16). -/
def State.judgeBusy (s : State) : State :=
  match s.tx with
  | some a => if a.phase = .assessing then s.deferOwner a.owner else s
  | none => s

/-! ### Clear, preamble, body (R16, R17) -/

/-- The attempt whose phase `p` is over by now. -/
def State.phaseOver (s : State) (p : Phase) : Option Attempt :=
  match s.tx with
  | some a => if a.phase = p ∧ a.ends ≤ s.now then some a else none
  | none => none

/-- The own rank toward an UPWARD entry's target; a SPREAD entry's transmit rank stays absent (R94). -/
def State.clearRank (s : State) (e : Hold) : Option Rank :=
  match e.goal with
  | .upward a => some s.ranks[a]
  | .spread _ => e.transmitRank

/-- The owner is told "clear": a hold entry enters SENDING and fixes its transmit rank (R18, R94). -/
def State.ownerClear (s : State) : Owner → State
  | .beacon => s
  | .hush => s
  | .hold i =>
    match s.hold[i] with
    | some e => s.setHold i (some { e with
        state := .sending, attempts := e.attempts + 1, transmitRank := s.clearRank e })
    | none => s
  | .survey => s

/-- The CCA_MS passes clear: SETTLING for 1 ms with the receiver OFF (R16, R17). -/
def State.clearChannel (s : State) (a : Attempt) : State :=
  { s.ownerClear a.owner with rx := .off, tx := some { a with phase := .settling, ends := s.now + ms 1 } }

/-- PREAMBLE begins: the power code is latched on the drive outputs (R2, R17, R131). -/
def State.beginPreamble (s : State) (a : Attempt) : State :=
  { s with
    tx := some { a with phase := .preamble, ends := s.now + s.cfg.preambleUnits * 8 * bitTime a.rate }
    drive := byteOf s.power
    rftx := preambleBytes s.cfg.preambleUnits a.rate }

/-- The BEACON header as it stands at the start of BODY (R53). -/
def State.beaconFrame (s : State) : BeaconHeader where
  serial := s.beaconSerial
  period := BitVec.ofNat 6 s.cfg.beaconPeriod
  sender := s.own
  rank0 := s.ranks[0]
  rank1 := s.ranks[1]
  rank2 := s.ranks[2]
  rank3 := s.ranks[3]

/-- The CARRY header sent for a hold entry (R95). -/
def State.carryFrame (s : State) (e : Hold) : CarryHeader where
  discipline := e.goal.discipline
  target := e.goal.target
  hops := e.hops
  origin := e.ident.origin
  serial := e.ident.serial
  sender := s.own
  senderRank := e.transmitRank.getD 4095
  dest := e.dest
  length := BitVec.ofNat 7 e.length
  pad := 0

/-- The HUSH header sent for the queue's head (R112). -/
def State.hushFrame (s : State) (id : Ident) : HushHeader where
  anchor := BitVec.ofNat 2 s.cfg.anchorIndex.1
  origin := id.origin
  serial := id.serial
  sender := s.own

/-- The SURVEY header of the burst's next frame (R174). -/
def State.surveyFrame (s : State) : SurveyHeader where
  sender := s.own
  sequence := BitVec.ofNat 14 s.burstRec.next
  fill := BitVec.ofNat 6 s.burstRec.fill
  pad := 0

/-- The frame taken from the owner's record, header to check (R17). -/
def State.ownerFrame (s : State) : Owner → List Byte
  | .beacon => frameBytes (beaconBits s.beaconFrame) []
  | .hush =>
    match s.hushQueue with
    | id :: _ => frameBytes (hushBits (s.hushFrame id)) []
    | [] => []
  | .hold i =>
    match s.hold[i] with
    | some e => frameBytes (carryBits (s.carryFrame e)) (chainBytes s.mem e.chain e.length)
    | none => []
  | .survey => frameBytes (surveyBits s.surveyFrame) (List.replicate s.burstRec.fill 0)

/-- BODY begins with the owner's record as it stands (R7, R17). -/
def State.beginBody (s : State) (a : Attempt) : State :=
  { s with
    tx := some { a with
      phase := .body, ends := s.now + (s.ownerFrame a.owner).length * 8 * bitTime a.rate }
    rftx := s.ownerFrame a.owner }

/-! ### Sent (R18, R55, R96, R112, R132, R175) -/

/-- The density step at a beacon sent while RUNNING; the code is frozen while SILENT (R132, R133). -/
def State.densityStep (s : State) : State :=
  if s.station = .running then
    if s.cfg.denseAbove < s.upCount then { s with power := max s.cfg.powerFloor (s.power - s.cfg.powerStep) }
    else if s.upCount < s.cfg.sparseBelow then { s with power := min s.cfg.powerCeiling (s.power + s.cfg.powerStep) }
    else s
  else s

/-- The echo wait in ms (R96). -/
def echoWait (cfg : Record) : Nat := cfg.holdMin + cfg.holdSpan + cfg.jitter + 32

/-- "sent" for a beacon (R55). -/
def State.beaconSent (s : State) : State :=
  State.densityStep { s.drawn with
    beaconSerial := s.beaconSerial + 1
    beacon := .waiting (s.nowMs + (s.cfg.beaconPeriod * 1000 + s.drawValue 255)) }

/-- "sent" for the HUSH queue's head: the next entry becomes head in STANDING (R112). -/
def State.hushSent (s : State) : State := { s with hushQueue := s.hushQueue.drop 1, hushHead := .standing }

/-- "sent" for a hold entry: by discipline while RUNNING, dropped while SILENT (R96, R100). -/
def State.holdSent (s : State) (i : Fin 16) : State :=
  match s.hold[i] with
  | none => s
  | some e =>
    if s.station = .running then
      match e.goal with
      | .spread _ => s.removeHold i .sent
      | .upward _ => s.setHold i (some { e with state := .awaitingEcho, deadline := s.nowMs + echoWait s.cfg })
    else s.removeHold i .silenced

/-- "sent" for a survey frame (R175, R176). -/
def State.surveySent (s : State) : State :=
  match s.burst with
  | .inAttempt =>
    let record := { s.burstRec with sent := s.burstRec.sent + 1, next := s.burstRec.next + 1 }
    if record.sent = record.count then State.report { s with burstRec := record, burst := .stopped } .surveyDone
    else { s with burstRec := record, burst := .waiting (s.nowMs + record.interval) }
  | .ending => { s with burst := .stopped }
  | .stopped | .waiting _ | .due | .backoff _ => s

/-- The owner is told "sent". -/
def State.ownerSent (s : State) : Owner → State
  | .beacon => s.beaconSent
  | .hush => s.hushSent
  | .hold i => s.holdSent i
  | .survey => s.surveySent

/-- BODY ends: receiver SEARCHING, transmitter IDLE, stretch timer restarted, "sent" to the owner (R17, R173). -/
def State.endBody (s : State) (a : Attempt) : State :=
  State.ownerSent { s with
    tx := none
    rx := .searching
    rftx := []
    stretch := some (s.nowMs + s.cfg.stretch) } a.owner

/-! ### Cancelling (R19, R57, R113, R176) -/

/-- An attempt ended in ASSESSING by SILENCE or STOP_SURVEY: the owner is told "cancelled" (R19). -/
def State.cancelOwner (s : State) (o : Owner) : State :=
  let s1 := { s with tx := none }
  match o with
  | .beacon =>
    match s.beacon with
    | .inAttempt r => { s1 with beacon := .due r }
    | .stopped | .waiting _ | .due _ | .backoff _ _ => s1
  | .hush => { s1 with hushHead := .standing }
  | .hold _ => s1
  | .survey => { s1 with burst := .stopped }

/-- End the attempt in ASSESSING, whoever owns it (R19). -/
def State.cancelAttempt (s : State) : State :=
  match s.tx with
  | some a => if a.phase = .assessing then s.cancelOwner a.owner else s
  | none => s

/-- End the attempt of a survey frame in ASSESSING (R19, R176). -/
def State.cancelSurvey (s : State) : State :=
  match s.tx with
  | some a => if a.phase = .assessing ∧ a.owner = .survey then s.cancelOwner .survey else s
  | none => s

/-- End a burst early: a frame past ASSESSING is let finish in ENDING (R176). -/
def State.endBurst (s : State) : State :=
  match s.burst with
  | .waiting _ | .due | .backoff _ => { s with burst := .stopped }
  | .inAttempt => { s with burst := .ending }
  | .stopped | .ending => s

/-- Drop the entry at a hold index unless its frame is being sent (R100). -/
def State.silenceHold (s : State) (i : Fin 16) : State :=
  if s.hold[i].any fun e => e.state = .sending then s else s.removeHold i .silenced

/-- Drop every hold entry not in SENDING, in ascending hold index (R100, R124). -/
def State.silenceHolds (s : State) : State := (List.finRange 16).foldl State.silenceHold s

end Sys2Proof.Machine
end

