-- ==== Sys2Proof/Machine/Startup.lean ====
section
/-! DEFINITION. The rows of the supply, the reset line and the configuration load, and the configuration memory's pins
(11). -/

namespace Sys2Proof.Machine

/-- Every block at its reset values. The store's bytes are not cleared (R119); time, the queue and the number of free
values taken are no block's. -/
def State.resetBlocks (s : State) : State :=
  { State.reset with now := s.now, pending := s.pending, mem := s.mem, unstated := s.unstated }

/-- Enter AWAITING_CONFIG: the indicator begins its alternation, on (R173, R182). -/
def State.awaitConfig (s : State) : State :=
  { s with station := .awaitingConfig, loader := .idle, alternation := some ⟨true, s.nowMs + 250⟩ }

/-- The rank vector at acceptance: Ro[k] is 0 in the ANCHOR role (R43). -/
def acceptedRanks (r : Record) (ranks : Vector Rank 4) : Vector Rank 4 :=
  match r.role with
  | .anchor => setAt ranks r.anchorIndex 0
  | .lamp => ranks

/-- Acceptance of a record: every block takes it in this event, and the station enters RUNNING (R184). -/
def State.acceptRecord (s : State) (r : Record) : State :=
  let s1 := State.writeEvents { s with
    record := some r
    station := .running
    loader := .idle
    jitter := r.node
    ranks := acceptedRanks r s.ranks
    power := r.powerCeiling
    rate := r.startRate
    echoed := 0
    unechoed := 0
    rx := .searching
    alternation := none } r.eventMasks r.triggerModes r.latchFlags
  { s1.drawn with beacon := .waiting (s.nowMs + (1000 + s1.drawValue 255)) }

/-- Acceptance of the record in `bytes`, with CONFIG_FAULT where it counted a clamp (R183, R184). -/
def State.acceptBytes (s : State) (bytes : Nat → Byte) : State :=
  let s1 := s.acceptRecord (recordOf bytes)
  (if 0 < clampCount bytes then s1.report .configFault else s1).settle

/-- POWER_ON (R181): reset values, record discarded, held until the reset is released. -/
def execPowerOn (t : Time) (s : State) : Host.Outcome State Fault Refusal := .next (s.advance t).resetBlocks

/-- RESET_LINE (R181): alike in effect to power-on; a load or an attempt in progress is abandoned. -/
def execResetLine (t : Time) (s : State) : Host.Outcome State Fault Refusal := .next (s.advance t).resetBlocks

/-- RESET_RELEASE (R181, R182): from reset, the station is LOADING and the load begins, its 25 ms counted afresh. -/
def execResetRelease (t : Time) (s : State) : Host.Outcome State Fault Refusal :=
  let s := s.advance t
  if s.loader = .held then .next { s with station := .loading, loader := .polling s.nowMs } else .next s

/-- CONFIG_STATUS_POLL (R182): within 25 ms of the start of the load, a status byte with bit 0 clear starts the read;
otherwise polling goes on. -/
def execConfigStatusPoll (t : Time) (status : Byte) (s : State) : Host.Outcome State Fault Refusal :=
  let s := s.advance t
  match s.loader with
  | .polling since =>
    if status.getLsbD 0 = false ∧ s.nowMs ≤ since + 25 then .next { s with loader := .reading } else .next s
  | .held | .reading | .idle => .next s

/-- CONFIG_LOAD_TIMEOUT (R182): 25 ms without a ready answer; AWAITING_CONFIG, no CONFIG_FAULT. -/
def execConfigLoadTimeout (t : Time) (s : State) : Host.Outcome State Fault Refusal :=
  let s := s.advance t
  match s.loader with
  | .polling since => if since + 25 ≤ s.nowMs then .next s.awaitConfig else .next s
  | .held | .reading | .idle => .next s

/-- CONFIG_READ_DONE (R182): signature, then node address, then acceptance. -/
def execConfigReadDone (t : Time) (driven : List Byte) (s : State) : Host.Outcome State Fault Refusal :=
  let s := s.advance t
  if s.loader = .reading then
    if memoryBytes driven 0 ≠ 0xC3#8 then .next s.awaitConfig
    else if noStation (recordNode (memoryBytes driven)) then .next (s.awaitConfig.report .configFault)
    else .next (s.acceptBytes (memoryBytes driven))
  else .next s

/-! ### The configuration memory's pins (R182)

The load is a run of transactions: status reads, then the data read. `half` says where the present one stands: `none`
between two transactions, `some k` in the k-th half period of CMCLK since its first bit began. R182 gives no time between
two transactions and no part of the 1 MHz period for which CMCLK is low, and none is chosen here (log 23). -/

/-- The bytes the loader sends at the head of a transaction: a status read sends 05 hex, the data read 03 hex and the
address 0000 hex (R182). -/
def State.memoryOut (s : State) : List Byte :=
  match s.loader with
  | .held => []
  | .polling _ => [0x05]
  | .reading => [0x03, 0x00, 0x00]
  | .idle => []

/-- How many bytes the loader then clocks in: one status byte, or the 48 bytes of the record (R182). -/
def State.memoryIn (s : State) : Nat :=
  match s.loader with
  | .held => 0
  | .polling _ => 1
  | .reading => 48
  | .idle => 0

/-- The bits of one transaction, sent and clocked in; 0 where the pins are idle (R182). -/
def State.memoryBits (s : State) : Nat := 8 * (s.memoryOut.length + s.memoryIn)

/-- CMSEL: low, selecting the memory, from the first bit of a transaction to its last, and high otherwise (R182). -/
def State.memorySelected (s : State) (half : Option Nat) : Bool := half.any fun k => k < 2 * s.memoryBits

/-- CMCLK: low while idle; it rises once in each bit of a transaction, between the bit's two halves (R182). -/
def State.memoryClock (s : State) (half : Option Nat) : Bool :=
  s.memorySelected half && half.any fun k => k % 2 = 1

/-- CMDO: the bit sent, changed after the falling edge that ends the bit before it, most-significant bit first; `none`
where no bit is sent and R182 gives no level (log 23). -/
def State.memoryData (s : State) (half : Option Nat) : Option Bool :=
  half.bind fun k =>
    if k < 16 * s.memoryOut.length then some ((s.memoryOut.getD (k / 16) 0x00).getMsbD (k / 2 % 8)) else none

/-- What CMDI reads at a rising edge of CMCLK: the level driven, or high where no memory drives it (R182). -/
def cmdiLevel (driven : Option Bool) : Bool := driven.getD true

/-- The bytes the loader clocks in during one transaction, from CMDI at each of its rising edges (R182). -/
def State.memoryReceived (s : State) (cmdi : List (Option Bool)) : List Byte :=
  (bytesOfBits (cmdi.map cmdiLevel)).drop s.memoryOut.length

/-- The command that a whole transaction of the memory amounts to, its last bit taken at `t`; none before its last bit
and where the pins are idle (R182). -/
def State.memoryCommand (s : State) (t : Time) (cmdi : List (Option Bool)) : Option Instr :=
  if cmdi.length = s.memoryBits then
    match s.loader with
    | .held => none
    | .polling _ => some (.configStatusPoll t ((s.memoryReceived cmdi).getD 0 0xFF))
    | .reading => some (.configReadDone t (s.memoryReceived cmdi))
    | .idle => none
  else none

/-- A whole transaction of the configuration memory joins the queue (R182). -/
def State.memoryTransact (s : State) (t : Time) (cmdi : List (Option Bool)) : State :=
  { s with pending := s.pending ++ (s.memoryCommand t cmdi).toList }

end Sys2Proof.Machine
end

