-- ==== Sys2Proof/Machine/AirRows.lean ====
section
/-! DEFINITION. The rows of the receiver and of the transmitter (01). -/

namespace Sys2Proof.Machine

/-! ### The receiver's search (R9, R10) -/

/-- The receiver state after a whole unit at a rate: a training unit awaits the start mark, a start mark begins
RECEIVING (R9). Other bits are no unit. -/
def afterUnit (rate : Rate) (unit : Byte) : Option Receiver :=
  if unit = trainingUnit then some (.awaiting rate)
  else if unit = startMarkOf rate then some (.receiving rate)
  else none

/-- PREAMBLE_DETECTED (R9, R16): an assessment in progress is judged busy. -/
def execPreambleDetected (t : Time) (rate : Rate) (unit : Byte) (s : State) : Host.Outcome State Fault Refusal :=
  let s := s.advance t
  match s.rx, afterUnit rate unit with
  | .searching, some r => .next (State.judgeBusy { s with rx := r }).finish
  | .searching, none => .next s
  | .off, _ => .next s
  | .awaiting _, _ => .next s
  | .receiving _, _ => .next s

/-- START_MARK (R9): RECEIVING at the awaited rate. -/
def execStartMark (t : Time) (s : State) : Host.Outcome State Fault Refusal :=
  let s := s.advance t
  match s.rx with
  | .awaiting rate => .next { s with rx := .receiving rate }
  | .off | .searching | .receiving _ => .next s

/-- PREAMBLE_END_NO_FRAME (R9): eight bits that are neither a training unit nor the awaited start mark. -/
def execPreambleEndNoFrame (t : Time) (unit : Byte) (s : State) : Host.Outcome State Fault Refusal :=
  let s := s.advance t
  match s.rx with
  | .awaiting rate =>
    if unit ≠ trainingUnit ∧ unit ≠ startMarkOf rate then .next { s with rx := .searching } else .next s
  | .off | .searching | .receiving _ => .next s

/-- Whether a frame is being received. -/
def Receiver.isReceiving : Receiver → Bool
  | .off => false
  | .searching => false
  | .awaiting _ => false
  | .receiving _ => true

/-- A malformed or invalid frame: counted in frames_bad and discarded (R10, R12). -/
def State.discardBad (s : State) : State := State.count { s with rx := .searching } Stats.addBad

/-- CARRY_HEADER_COMPLETE (R10): the first two malformed cases abandon the frame at once. -/
def execCarryHeaderComplete (t : Time) (header : CarryHeader) (s : State) : Host.Outcome State Fault Refusal :=
  let s := s.advance t
  if s.rx.isReceiving ∧ carryMalformed header then .next s.discardBad else .next s

/-- FRAME_LOST (R10): the third malformed case, judged from the readings when the loss occurs. -/
def execFrameLost (loss : FrameLoss) (s : State) : Host.Outcome State Fault Refusal :=
  let s := s.advance loss.time
  if s.rx.isReceiving ∧ lostLevel loss.levels then .next s.discardBad else .next s

/-! ### Bits collected (R10) -/

/-- The event that comes with the last of the bits received since the start mark, each with the level of its bit time: the
whole frame, its loss, or the end of a CARRY header (R10, log 24). -/
def airEvent (t : Time) (air : List (Bool × Int)) : Option Instr :=
  let bits := air.map Prod.fst
  let levels := air.map Prod.snd
  match wholeFrame bits with
  | some k => some (k.received t bits levels)
  | none =>
    if lostLevel levels then some (.frameLost ⟨t, levels⟩)
    else if frameKind bits = some .carry ∧ bits.length = 96 then some (.carryHeaderComplete t (readCarry bits))
    else none

/-- Whether an event ends the collection of the frame: any but the end of a header that is not malformed (R10). -/
def endsFrame : Instr → Bool
  | .carryHeaderComplete _ h => carryMalformed h
  | _ => true

/-- The events of collecting a frame, bit by bit: `air` follows the bits `heard` since the start mark, which ended at
`start` (R7, R10). -/
def collect (start : Time) (rate : Rate) : List (Bool × Int) → List (Bool × Int) → List Instr
  | _, [] => []
  | heard, b :: air =>
    match airEvent (start + (heard.length + 1) * bitTime rate) (heard ++ [b]) with
    | none => collect start rate (heard ++ [b]) air
    | some c => if endsFrame c then [c] else c :: collect start rate (heard ++ [b]) air

/-- What a receiver in RECEIVING collects from the air joins the queue; `start` is the end of the start mark (R10). -/
def State.hear (s : State) (start : Time) (air : List (Bool × Int)) : State :=
  match s.rx with
  | .receiving rate => { s with pending := s.pending ++ collect start rate [] air }
  | .off | .searching | .awaiting _ => s

/-! ### Frames received (R6, R10, R12, R13) -/

/-- A frame from the own address: counted in own_echo_or_stale and discarded (R12). -/
def State.discardOwn (s : State) : State := State.count { s with rx := .searching } Stats.addOwn

/-- A good frame: counted, the receiver back to SEARCHING (R12, R13). -/
def State.takeGood (s : State) : State := State.count { s with rx := .searching } Stats.addGood

/-- The judgement of a frame whose last check bit is in, and the hand-off of a good one (R10, R12, R13). -/
def State.receive (s : State) (bad : Bool) (sender : Address) (handOff : State → State) : State :=
  if s.rx.isReceiving then
    if bad then s.discardBad
    else if sender = s.own then s.discardOwn
    else (handOff s.takeGood).finish
  else s

/-- A BEACON is bad: it was lost, its check fails or its sender names no station (R6, R10, R12). -/
def beaconBad (h : BeaconHeader) (check : BitVec 16) (levels : List Int) : Bool :=
  lostBeforeEnd levels || check ≠ frameCheck (beaconBits h) || noStation h.sender

/-- A CARRY is bad: malformed, lost, not as long as it states (no frame is, log 19), its check fails, its sender or origin names no station, or its dest node is 0
(R10, R12). -/
def carryBad (h : CarryHeader) (payload : List Byte) (check : BitVec 16) (levels : List Int) : Bool :=
  carryMalformed h || lostBeforeEnd levels || payload.length ≠ h.length.toNat || check ≠ frameCheck (carryBits h ++ payloadBits payload)
    || noStation h.sender || noStation h.origin || h.dest = 0#16

/-- A HUSH is bad: it was lost, its check fails, or its sender or origin names no station (R6, R10, R12). -/
def hushBad (h : HushHeader) (check : BitVec 16) (levels : List Int) : Bool :=
  lostBeforeEnd levels || check ≠ frameCheck (hushBits h) || noStation h.sender || noStation h.origin

/-- A SURVEY is bad: it was lost, is not as long as it states (no frame is, log 19), its check fails or its sender names
no station (R6, R10, R12). -/
def surveyBad (h : SurveyHeader) (fill : List Byte) (check : BitVec 16) (levels : List Int) : Bool :=
  lostBeforeEnd levels || fill.length ≠ h.fill.toNat || check ≠ frameCheck (surveyBits h ++ payloadBits fill) || noStation h.sender

/-- BEACON_RECEIVED (R13, R30). -/
def execBeaconReceived (t : Time) (header : BeaconHeader) (check : BitVec 16) (levels : List Int) (s : State) :
    Host.Outcome State Fault Refusal :=
  .next ((s.advance t).receive (beaconBad header check levels) header.sender fun s =>
    s.takeBeacon header (marginOf levels))

/-- CARRY_RECEIVED (R13, R65): the neighbour table first, then the seen list. -/
def execCarryReceived (t : Time) (header : CarryHeader) (payload : List Byte) (check : BitVec 16) (levels : List Int)
    (s : State) : Host.Outcome State Fault Refusal :=
  .next ((s.advance t).receive (carryBad header payload check levels) header.sender fun s =>
    (s.takeMargin header.sender (marginOf levels)).takeCarry header payload)

/-- HUSH_RECEIVED (R13, R69): the neighbour table first, then the seen list. -/
def execHushReceived (t : Time) (header : HushHeader) (check : BitVec 16) (levels : List Int) (s : State) :
    Host.Outcome State Fault Refusal :=
  .next ((s.advance t).receive (hushBad header check levels) header.sender fun s =>
    (s.takeMargin header.sender (marginOf levels)).takeHush header)

/-- The tally after a SURVEY frame (R177). -/
def tallied (tally : Option Tally) (h : SurveyHeader) (margin : Nat) : Tally :=
  match tally with
  | some y =>
    if y.sender = h.sender then
      { y with
        heard := satInc 65535 y.heard
        missing := satAdd 65535 y.missing (h.sequence.toNat - y.last.toNat - 1)
        last := h.sequence
        marginAvg := smoothed y.marginAvg margin }
    else ⟨h.sender, 1, h.sequence, h.sequence, 0, margin⟩
  | none => ⟨h.sender, 1, h.sequence, h.sequence, 0, margin⟩

/-- A good SURVEY at the survey unit (R177). -/
def State.takeSurvey (s : State) (h : SurveyHeader) (margin : Nat) : State :=
  State.report { s with tally := some (tallied s.tally h margin) } .surveyHeard

/-- SURVEY_RECEIVED (R13, R177). -/
def execSurveyReceived (t : Time) (header : SurveyHeader) (fill : List Byte) (check : BitVec 16) (levels : List Int)
    (s : State) : Host.Outcome State Fault Refusal :=
  .next ((s.advance t).receive (surveyBad header fill check levels) header.sender fun s =>
    s.takeSurvey header (marginOf levels))

/-! ### The transmit sequence (R16, R17) -/

/-- Whether an attempt is in ASSESSING. -/
def State.assessing (s : State) : Bool := s.tx.any fun a => a.phase = .assessing

/-- BUSY_LEVEL_RISE (R16): a level above BUSY_LEVEL during ASSESSING judges the channel busy. -/
def execBusyLevelRise (t : Time) (level : Int) (s : State) : Host.Outcome State Fault Refusal :=
  let s := s.advance t
  if s.assessing ∧ (1000 * s.cfg.busyLevel : Int) < level then .next s.judgeBusy.finish else .next s

/-- CCA_CLEAR (R16, R94): CCA_MS passed without a busy judgement. -/
def execCcaClear (t : Time) (s : State) : Host.Outcome State Fault Refusal :=
  let s := s.advance t
  match s.phaseOver .assessing with
  | some a => .next (s.clearChannel a)
  | none => .next s

/-- SETTLING_END (R17, R131). -/
def execSettlingEnd (t : Time) (s : State) : Host.Outcome State Fault Refusal :=
  let s := s.advance t
  match s.phaseOver .settling with
  | some a => .next (s.beginPreamble a)
  | none => .next s

/-- PREAMBLE_SENT (R17, R53, R95). -/
def execPreambleSent (t : Time) (s : State) : Host.Outcome State Fault Refusal :=
  let s := s.advance t
  match s.phaseOver .preamble with
  | some a => .next (s.beginBody a)
  | none => .next s

/-- BODY_END (R17, R55, R96, R112, R175): "sent" to the owner, then the next grant. -/
def execBodyEnd (t : Time) (s : State) : Host.Outcome State Fault Refusal :=
  let s := s.advance t
  match s.phaseOver .body with
  | some a => .next (s.endBody a).finish
  | none => .next s

end Sys2Proof.Machine
end

