-- ==== Sys2Proof/Machine/TimerRows.lean ====
section
/-! DEFINITION. The rows of the timers. A timer's row has its effect when the timer runs and its deadline has come;
otherwise the expiry does not occur (R32, R70, R74, R103; log 2, 3). -/

namespace Sys2Proof.Machine

/-- NEIGHBOUR_DUE_EXPIRY (R33). -/
def execNeighbourDueExpiry (t : Time) (slot : Fin 32) (s : State) : Host.Outcome State Fault Refusal :=
  let s := s.advance t
  match s.table[slot] with
  | some n => if n.due ≤ s.nowMs then .next (s.missBeacon slot n).settle else .next s
  | none => .next s

/-- BEACON_DUE_EXPIRY (R51). -/
def execBeaconDueExpiry (t : Time) (s : State) : Host.Outcome State Fault Refusal :=
  let s := s.advance t
  match s.beacon with
  | .waiting due =>
    if due ≤ s.nowMs then .next (State.finish { s with beacon := .due (s.nowMs + s.cfg.beaconPeriod * 1000) })
    else .next s
  | .stopped | .due _ | .backoff _ _ | .inAttempt _ => .next s

/-- BEACON_BACKOFF_EXPIRY (R52). -/
def execBeaconBackoffExpiry (t : Time) (s : State) : Host.Outcome State Fault Refusal :=
  let s := s.advance t
  match s.beacon with
  | .backoff deadline replacement =>
    if deadline ≤ s.nowMs then .next (State.finish { s with beacon := .due replacement }) else .next s
  | .stopped | .waiting _ | .due _ | .inAttempt _ => .next s

/-- BEACON_REPLACEMENT_EXPIRY (R54). -/
def execBeaconReplacementExpiry (t : Time) (s : State) : Host.Outcome State Fault Refusal :=
  let s := s.advance t
  let next := s.nowMs + s.cfg.beaconPeriod * 1000
  match s.beacon with
  | .due replacement => if replacement ≤ s.nowMs then .next (State.finish { s with beacon := .due next }) else .next s
  | .backoff _ replacement =>
    if replacement ≤ s.nowMs then .next (State.finish { s with beacon := .due next }) else .next s
  | .inAttempt replacement =>
    if replacement ≤ s.nowMs then .next { s with beacon := .inAttempt next } else .next s
  | .stopped | .waiting _ => .next s

/-- HOLD_DEADLINE_EXPIRY (R91, R92). -/
def execHoldDeadlineExpiry (t : Time) (index : Fin 16) (s : State) : Host.Outcome State Fault Refusal :=
  let s := s.advance t
  match s.hold[index] with
  | some e =>
    if e.state = .holding ∧ e.deadline ≤ s.nowMs then .next (s.expireHold index e).finish else .next s
  | none => .next s

/-- ECHO_DEADLINE_EXPIRY (R98). -/
def execEchoDeadlineExpiry (t : Time) (index : Fin 16) (s : State) : Host.Outcome State Fault Refusal :=
  let s := s.advance t
  match s.hold[index] with
  | some e =>
    if e.state = .awaitingEcho ∧ e.deadline ≤ s.nowMs then .next (s.expireEcho index e).settle else .next s
  | none => .next s

/-- HUSH_BACKOFF_EXPIRY (R112). -/
def execHushBackoffExpiry (t : Time) (s : State) : Host.Outcome State Fault Refusal :=
  let s := s.advance t
  match s.hushHead with
  | .backoff deadline =>
    if deadline ≤ s.nowMs then .next (State.finish { s with hushHead := .standing }) else .next s
  | .standing | .inAttempt => .next s

/-- SURVEY_INTERVAL_EXPIRY (R175). -/
def execSurveyIntervalExpiry (t : Time) (s : State) : Host.Outcome State Fault Refusal :=
  let s := s.advance t
  match s.burst with
  | .waiting deadline => if deadline ≤ s.nowMs then .next (State.finish { s with burst := .due }) else .next s
  | .stopped | .due | .backoff _ | .inAttempt | .ending => .next s

/-- SURVEY_BACKOFF_EXPIRY (R175): the same sequence is due again. -/
def execSurveyBackoffExpiry (t : Time) (s : State) : Host.Outcome State Fault Refusal :=
  let s := s.advance t
  match s.burst with
  | .backoff deadline => if deadline ≤ s.nowMs then .next (State.finish { s with burst := .due }) else .next s
  | .stopped | .waiting _ | .due | .inAttempt | .ending => .next s

/-- STRETCH_EXPIRY (R173). -/
def execStretchExpiry (t : Time) (s : State) : Host.Outcome State Fault Refusal :=
  let s := s.advance t
  match s.stretch with
  | some deadline => if deadline ≤ s.nowMs then .next { s with stretch := none } else .next s
  | none => .next s

/-- INDICATOR_ALTERNATION (R173): 250 ms on and 250 ms off in turn. -/
def execIndicatorAlternation (t : Time) (s : State) : Host.Outcome State Fault Refusal :=
  let s := s.advance t
  match s.alternation with
  | some a =>
    if a.deadline ≤ s.nowMs then .next { s with alternation := some ⟨!a.on, s.nowMs + 250⟩ } else .next s
  | none => .next s

end Sys2Proof.Machine
end

