-- ==== Sys2Proof/Machine/LampRows.lean ====
section
/-! DEFINITION. The rows of the lamp port (10, and CONFIGURE and RESTART of 11). -/

namespace Sys2Proof.Machine

/-! ### The judgement by station state (R163) -/

/-- The rows of R163's table. -/
inductive PortClass where
  | status
  | configure
  | restart
  | submit
  | survey
  | silence
  | resume
  | other
  deriving DecidableEq, Repr

/-- The result a command receives from its station state alone; `none` is Taken (R163). -/
def portRefusal : PortClass → Station → Option Result
  | .status, _ => none
  | .configure, .loading => some .notReady
  | .configure, .awaitingConfig => none
  | .configure, .running => some .badState
  | .configure, .silent => some .badState
  | .restart, .loading => some .notReady
  | .restart, .awaitingConfig => none
  | .restart, .running => none
  | .restart, .silent => none
  | _, .loading => some .notReady
  | _, .awaitingConfig => some .notReady
  | .submit, .running => none
  | .submit, .silent => some .silent
  | .survey, .running => none
  | .survey, .silent => some .silent
  | .silence, .running => none
  | .silence, .silent => some .badState
  | .resume, .running => some .badState
  | .resume, .silent => none
  | .other, .running => none
  | .other, .silent => none

/-- A command whose last argument byte is in: its station state's answer, or its own effect (R161, R163). -/
def State.port (s : State) (c : PortClass) (effect : State → State) : State :=
  match portRefusal c s.station with
  | some r => s.answer [r.code]
  | none => effect s

/-- The answer OK alone. -/
def State.ok (s : State) : State := s.answer [Result.ok.code]

/-! ### Transactions (R126, R161, R162) -/

/-- The commands a whole transaction amounts to, from the bytes clocked in while LSEL was low: the command taken at
`taken`, or an abort where LSEL rises at `ended` before one is taken. A FETCH has clocked out its payload bytes after 2
bytes in, the result byte and 10 bytes of fields, and ends early where they are fewer than n (R126, R161). -/
def transactionCommands (taken ended : Time) (bytes : List Byte) : List Instr :=
  match decodeTransaction taken bytes with
  | none => [.lselRiseAbort ended]
  | some (.fetch t n) =>
    if bytes.length - 13 < fetchCount n then [.fetch t n, .transactionEndedEarly ended (bytes.length - 13)]
    else [.fetch t n]
  | some c => [c]

/-- An edge of LCLK while LSEL is low; at a rising one LDI is sampled (R161). -/
inductive LampEdge where
  | rise (ldi : Bool)
  | fall
  deriving DecidableEq, Repr

/-- One more edge of LCLK, to the bits sampled so far and those sampled by the last falling edge: a rising edge samples
LDI, a falling edge moves LDO on to the bit after all that are sampled (R161). -/
def clockEdge (bits : List Bool × List Bool) : LampEdge → List Bool × List Bool
  | .rise ldi => (bits.1 ++ [ldi], bits.2)
  | .fall => (bits.1, bits.1)

/-- The bits sampled from LDI since LSEL fell, and those of them that LDO has moved past (R161). -/
def lampClocked (edges : List LampEdge) : List Bool × List Bool := edges.foldl clockEdge ([], [])

/-- A transaction of the lamp controller joins the queue; `edges` are those of LCLK while LSEL was low, with the levels
of LDI (R161). -/
def State.transact (s : State) (taken ended : Time) (edges : List LampEdge) : State :=
  { s with pending := s.pending ++ transactionCommands taken ended (bytesOfBits (lampClocked edges).1) }

/-- The byte LDO sends while the byte after `bytes` is clocked in: 00 hex until the command is taken, then the result
byte and the response bytes, then 00 hex (R161). A result other than OK has no response bytes. -/
def State.ldoByte (s : State) (bytes : List Byte) : Byte :=
  match commandLength bytes with
  | none => 0x00
  | some n => s.response.getD (bytes.length - n) 0x00

/-- LDO, by the level of LSEL and the edges of LCLK since LSEL fell: tristate (`none`) while LSEL is high, and driven while
it is low, most-significant bit first, changing on falling edges alone (R161). Before the first falling edge it carries the
first bit of the 00 hex that goes out under the command byte, whether LCLK idles low or high. -/
def State.ldo (s : State) (lsel : Bool) (edges : List LampEdge) : Option Bool :=
  let past := (lampClocked edges).2
  if lsel then none else some ((s.ldoByte (bytesOfBits past)).getMsbD (past.length % 8))

/-- LSEL_RISE_ABORT (R161): the transaction is discarded and no state changes. -/
def execLselRiseAbort (t : Time) (s : State) : Host.Outcome State Fault Refusal := .next (s.advance t)

/-- BAD_COMMAND (R162): a byte not in the table is answered BAD_COMMAND in every station state. -/
def execBadCommand (t : Time) (code : Byte) (s : State) : Host.Outcome State Fault Refusal :=
  let s := s.advance t
  if commandCodes.contains code then .next s else .next (s.answer [Result.badCommand.code])

/-! ### Reading the station (R164, R165) -/

/-- The STATUS response (R162, R164). -/
def State.statusBytes (s : State) : List Byte :=
  byteOf s.station.code :: (s.ranks.toList.flatMap fun r => bigEndian 2 r.toNat)
    ++ [byteOf s.holdCount, byteOf s.free.length, byteOf s.ring.length, byteOf (rateCode s.rate), byteOf s.power]

/-- STATUS (R164). -/
def execStatus (t : Time) (s : State) : Host.Outcome State Fault Refusal :=
  .next ((s.advance t).port .status fun s => s.answer (Result.ok.code :: s.statusBytes))

/-- The fields of an entry in READ_TABLE (R40, R162). -/
def Neighbour.tableBytes (n : Neighbour) (nowMs : Millis) : List Byte :=
  byteOf n.standing.code :: bigEndian 2 n.address.toNat ++ [byteOf n.history.length]
    ++ bigEndian 2 (marksWord n.history)
    ++ [byteOf (linkQuality n.history), byteOf n.heardStreak, byteOf n.missStreak, byteOf n.missesNoted,
        byteOf n.marginAvg]
    ++ (n.ranks.toList.flatMap fun r => bigEndian 2 r.toNat)
    ++ [byteOf n.period, n.serial] ++ bigEndian 3 (n.due - nowMs)

/-- The READ_TABLE response: the slot at the cursor; an empty one is ABSENT and 0 throughout (R165). -/
def State.tableBytes (s : State) : List Byte :=
  byteOf s.tableCursor.1 ::
    match s.table[s.tableCursor] with
    | some n => n.tableBytes s.nowMs
    | none => List.replicate 24 0

/-- READ_TABLE (R165): report the slot and advance the cursor, wrapping from 31 to 0. -/
def execReadTable (t : Time) (s : State) : Host.Outcome State Fault Refusal :=
  .next ((s.advance t).port .other fun s =>
    State.answer { s with tableCursor := s.tableCursor + 1 } (Result.ok.code :: s.tableBytes))

/-- The READ_STATS response, in the order of R179's table. -/
def Stats.bytes (c : Stats) : List Byte :=
  bigEndian 2 (bcd4 c.framesGood) ++ [byteOf c.framesBad] ++ bigEndian 2 c.relayed ++ bigEndian 2 c.suppressed
    ++ bigEndian 2 c.hushed ++ bigEndian 2 c.abandoned ++ bigEndian 2 c.droppedNoBuffer
    ++ bigEndian 2 c.droppedOther
    ++ [byteOf c.deliveryOverflow, byteOf c.tableRefused, byteOf c.hushLost, byteOf c.ownEchoOrStale]

/-- READ_STATS (R179): report, and clear with the flag set. -/
def execReadStats (t : Time) (clear : Byte) (s : State) : Host.Outcome State Fault Refusal :=
  .next ((s.advance t).port .other fun s =>
    State.answer { s with stats := if clear = 0#8 then s.stats else Stats.zero } (Result.ok.code :: s.stats.bytes))

/-! ### Configuration and restart (R185, R186) -/

/-- CONFIGURE (R185): a transaction that ends before its last argument byte is discarded (R161). -/
def execConfigure (t : Time) (bytes : List Byte) (s : State) : Host.Outcome State Fault Refusal :=
  if bytes.length < 47 then .next (s.advance t)
  else .next ((s.advance t).port .configure fun s =>
    if noStation (recordNode (configureBytes bytes)) then s.answer [Result.badArgument.code]
    else (s.acceptBytes (configureBytes bytes)).ok)

/-- RESTART (R186): reset values with the record kept, which is accepted again where there is one. -/
def execRestart (t : Time) (s : State) : Host.Outcome State Fault Refusal :=
  .next ((s.advance t).port .restart fun s =>
    match s.record with
    | some r => (s.resetBlocks.acceptRecord r).settle.ok
    | none => s.resetBlocks.awaitConfig.ok)

/-! ### Messages (R125, R148, R149, R153 to R158, R166) -/

/-- SUBMIT (R153, R156). -/
def execSubmit (t : Time) (discipline target : Byte) (dest : Address) (hops : Byte) (payload : List Byte)
    (s : State) : Host.Outcome State Fault Refusal :=
  .next ((s.advance t).port .submit fun s =>
    match s.submitRefusal discipline target dest payload.length with
    | some r => s.answer [r.code]
    | none =>
      (s.acceptSubmit (goalOf (if discipline = 0#8 then .upward else .spread) target) dest hops payload).settle)

/-- The report of one slot, and the slot and the number of free values taken afterwards (R158, log 8). -/
def Slot.read (unstated : Nat) : Slot → List Byte × Slot × Nat
  | .free =>
    ([0x00, Config.freeByte unstated, Config.freeByte (unstated + 1), 0x00, 0x00, Config.freeByte (unstated + 2)],
      .free, unstated + 3)
  | .pending serial =>
    (0x01 :: bigEndian 2 serial.toNat ++ [0x00, 0x00, Config.freeByte unstated], .pending serial, unstated + 1)
  | .complete serial outcome attempts =>
    (0x02 :: bigEndian 2 serial.toNat ++ [byteOf outcome.code, byteOf outcome.reasonCode, byteOf attempts],
      .free, unstated)

/-- ORIGIN_STATUS (R158): reading a COMPLETE slot frees it. -/
def execOriginStatus (t : Time) (slot : Byte) (s : State) : Host.Outcome State Fault Refusal :=
  .next ((s.advance t).port .other fun s =>
    if h : slot.toNat < 4 then
      let r := Slot.read s.unstated s.slots[(⟨slot.toNat, h⟩ : Fin 4)]
      State.settle (State.answer { s with slots := setAt s.slots ⟨slot.toNat, h⟩ r.2.1, unstated := r.2.2 }
        (Result.ok.code :: r.1))
    else s.answer [Result.badArgument.code])

/-- The ring head's fields (R146, R162). -/
def Delivery.bytes (d : Delivery) : List Byte :=
  bigEndian 2 d.ident.origin.toNat ++ bigEndian 2 d.ident.serial.toNat
    ++ [byteOf (disciplineCode d.goal.discipline), d.goal.target] ++ bigEndian 2 d.sender.toNat
    ++ [byteOf d.hops.toNat, byteOf d.length]

/-- `n` payload bytes from a cursor, wrapping after the last; zero bytes for an empty payload (R125, R126). -/
def State.fetchBytes (s : State) (d : Delivery) (start n : Nat) : List Byte :=
  (List.range n).map fun i => if d.length = 0 then 0#8 else chainByte s.mem d.chain ((start + i) % d.length)

/-- The payload cursor after `n` bytes of a payload of length `length` (R125, R126). -/
def cursorAfter (start n length : Nat) : Nat := if length = 0 then 0 else (start + n) % length

/-- FETCH (R125, R149, R166). -/
def execFetch (t : Time) (n : Byte) (s : State) : Host.Outcome State Fault Refusal :=
  .next ((s.advance t).port .other fun s =>
    match s.ring with
    | [] => s.answer [Result.empty.code]
    | d :: _ =>
      { s with
        cursor := cursorAfter s.cursor (fetchCount n) d.length
        response := Result.ok.code :: d.bytes ++ s.fetchBytes d s.cursor (fetchCount n)
        fetching := some ⟨s.cursor, fetchCount n⟩ })

/-- TRANSACTION_ENDED_EARLY (R126, R161): LSEL rose with fewer than n payload bytes of the FETCH clocked out; the
cursor is left advanced by those alone. -/
def execTransactionEndedEarly (t : Time) (supplied : Nat) (s : State) : Host.Outcome State Fault Refusal :=
  let s := s.advance t
  match s.fetching, s.ring with
  | some f, d :: _ =>
    if supplied < f.count then
      .next { s with
        cursor := cursorAfter f.start supplied d.length
        response := s.response.take (11 + supplied)
        fetching := none }
    else .next s
  | some _, [] => .next s
  | none, _ => .next s

/-- RELEASE (R126, R148). -/
def execRelease (t : Time) (s : State) : Host.Outcome State Fault Refusal :=
  .next ((s.advance t).port .other fun s =>
    match s.ring with
    | [] => s.answer [Result.empty.code]
    | d :: rest => (State.freeChain { s with ring := rest, cursor := 0 } d.chain).settle.ok)

/-! ### Events (R170, R171) -/

/-- READ_EVENTS (R171): report all statuses, then clear as for a selection of all. -/
def execReadEvents (t : Time) (s : State) : Host.Outcome State Fault Refusal :=
  .next ((s.advance t).port .other fun s =>
    (s.clearStatuses (BitVec.allOnes 12)).settle.answer (Result.ok.code :: bigEndian 2 s.statuses.toNat))

/-- CLEAR_EVENTS (R171). -/
def execClearEvents (t : Time) (selection : BitVec 16) (s : State) : Host.Outcome State Fault Refusal :=
  .next ((s.advance t).port .other fun s => (s.clearStatuses (selection.setWidth 12)).settle.ok)

/-- SET_EVENTS (R170). -/
def execSetEvents (t : Time) (masks : BitVec 16) (modes : Byte) (latches : BitVec 16) (s : State) :
    Host.Outcome State Fault Refusal :=
  .next ((s.advance t).port .other fun s =>
    (s.writeEvents (masks.setWidth 12) modes (latches.setWidth 12)).settle.ok)

/-! ### Silence (R167) -/

/-- The move to SILENT, handed to transmitter, relay engine and survey (R19, R100, R113, R176). -/
def State.silenced (s : State) : State :=
  (State.silenceHolds (State.cancelAttempt { s with station := .silent })).endBurst

/-- SILENCE (R167). -/
def execSilence (t : Time) (s : State) : Host.Outcome State Fault Refusal :=
  .next ((s.advance t).port .silence fun s => s.silenced.settle.ok)

/-- RESUME (R57, R113, R167): RUNNING again; standing requests are granted. -/
def execResume (t : Time) (s : State) : Host.Outcome State Fault Refusal :=
  .next ((s.advance t).port .resume fun s => (State.finish { s with station := .running }).ok)

/-! ### Survey (R174, R176, R178) -/

/-- SURVEY (R174): starts a burst when the burst state is STOPPED. -/
def execSurvey (t : Time) (count interval : BitVec 16) (rate fill : Byte) (s : State) :
    Host.Outcome State Fault Refusal :=
  .next ((s.advance t).port .survey fun s =>
    if s.burst = .stopped then
      (State.finish { s with
        burst := .due
        burstRec :=
          { count := clampTo 1 1000 count.toNat
            interval := clampTo 10 1000 interval.toNat
            rate := rateOf rate.toNat
            fill := min 48 fill.toNat
            sent := 0
            next := 0 } }).ok
    else s.answer [Result.badState.code])

/-- STOP_SURVEY (R176). -/
def execStopSurvey (t : Time) (s : State) : Host.Outcome State Fault Refusal :=
  .next ((s.advance t).port .other fun s => s.cancelSurvey.endBurst.finish.ok)

/-- The READ_SURVEY response; an empty tally reads as 0 (R178). -/
def tallyBytes : Option Tally → List Byte
  | some y =>
    bigEndian 2 y.sender.toNat ++ bigEndian 2 y.heard ++ bigEndian 2 y.first.toNat ++ bigEndian 2 y.last.toNat
      ++ bigEndian 2 y.missing ++ [byteOf y.marginAvg]
  | none => List.replicate 11 0

/-- READ_SURVEY (R178): report, and empty with the flag set. -/
def execReadSurvey (t : Time) (clear : Byte) (s : State) : Host.Outcome State Fault Refusal :=
  .next ((s.advance t).port .other fun s =>
    State.answer { s with tally := if clear = 0#8 then s.tally else none } (Result.ok.code :: tallyBytes s.tally))

end Sys2Proof.Machine
end

