-- ==== Sys2Proof/Machine/Dispatch.lean ====
section
/-! DEFINITION. The effect of a command on everything but the queue: one arm for each row of the opcode table. -/

namespace Sys2Proof.Machine

def exec (i : Instr) (s : State) : Host.Outcome State Fault Refusal :=
  match i with
  | .powerOn t => Sys2Proof.Machine.execPowerOn t s
  | .resetLine t => Sys2Proof.Machine.execResetLine t s
  | .resetRelease t => Sys2Proof.Machine.execResetRelease t s
  | .configStatusPoll t status => Sys2Proof.Machine.execConfigStatusPoll t status s
  | .configLoadTimeout t => Sys2Proof.Machine.execConfigLoadTimeout t s
  | .configReadDone t driven => Sys2Proof.Machine.execConfigReadDone t driven s
  | .preambleDetected t rate unit => Sys2Proof.Machine.execPreambleDetected t rate unit s
  | .startMark t => Sys2Proof.Machine.execStartMark t s
  | .preambleEndNoFrame t unit => Sys2Proof.Machine.execPreambleEndNoFrame t unit s
  | .carryHeaderComplete t header => Sys2Proof.Machine.execCarryHeaderComplete t header s
  | .frameLost loss => Sys2Proof.Machine.execFrameLost loss s
  | .beaconReceived t header check levels => Sys2Proof.Machine.execBeaconReceived t header check levels s
  | .carryReceived t header payload check levels => Sys2Proof.Machine.execCarryReceived t header payload check levels s
  | .hushReceived t header check levels => Sys2Proof.Machine.execHushReceived t header check levels s
  | .surveyReceived t header fill check levels => Sys2Proof.Machine.execSurveyReceived t header fill check levels s
  | .busyLevelRise t level => Sys2Proof.Machine.execBusyLevelRise t level s
  | .ccaClear t => Sys2Proof.Machine.execCcaClear t s
  | .settlingEnd t => Sys2Proof.Machine.execSettlingEnd t s
  | .preambleSent t => Sys2Proof.Machine.execPreambleSent t s
  | .bodyEnd t => Sys2Proof.Machine.execBodyEnd t s
  | .neighbourDueExpiry t slot => Sys2Proof.Machine.execNeighbourDueExpiry t slot s
  | .beaconDueExpiry t => Sys2Proof.Machine.execBeaconDueExpiry t s
  | .beaconBackoffExpiry t => Sys2Proof.Machine.execBeaconBackoffExpiry t s
  | .beaconReplacementExpiry t => Sys2Proof.Machine.execBeaconReplacementExpiry t s
  | .holdDeadlineExpiry t index => Sys2Proof.Machine.execHoldDeadlineExpiry t index s
  | .echoDeadlineExpiry t index => Sys2Proof.Machine.execEchoDeadlineExpiry t index s
  | .hushBackoffExpiry t => Sys2Proof.Machine.execHushBackoffExpiry t s
  | .surveyIntervalExpiry t => Sys2Proof.Machine.execSurveyIntervalExpiry t s
  | .surveyBackoffExpiry t => Sys2Proof.Machine.execSurveyBackoffExpiry t s
  | .stretchExpiry t => Sys2Proof.Machine.execStretchExpiry t s
  | .indicatorAlternation t => Sys2Proof.Machine.execIndicatorAlternation t s
  | .lselRiseAbort t => Sys2Proof.Machine.execLselRiseAbort t s
  | .status t => Sys2Proof.Machine.execStatus t s
  | .configure t bytes => Sys2Proof.Machine.execConfigure t bytes s
  | .submit t discipline target dest hops payload => Sys2Proof.Machine.execSubmit t discipline target dest hops payload s
  | .originStatus t slot => Sys2Proof.Machine.execOriginStatus t slot s
  | .fetch t n => Sys2Proof.Machine.execFetch t n s
  | .release t => Sys2Proof.Machine.execRelease t s
  | .readEvents t => Sys2Proof.Machine.execReadEvents t s
  | .clearEvents t selection => Sys2Proof.Machine.execClearEvents t selection s
  | .setEvents t masks modes latches => Sys2Proof.Machine.execSetEvents t masks modes latches s
  | .readTable t => Sys2Proof.Machine.execReadTable t s
  | .readStats t clear => Sys2Proof.Machine.execReadStats t clear s
  | .silence t => Sys2Proof.Machine.execSilence t s
  | .resume t => Sys2Proof.Machine.execResume t s
  | .survey t count interval rate fill => Sys2Proof.Machine.execSurvey t count interval rate fill s
  | .stopSurvey t => Sys2Proof.Machine.execStopSurvey t s
  | .readSurvey t clear => Sys2Proof.Machine.execReadSurvey t clear s
  | .restart t => Sys2Proof.Machine.execRestart t s
  | .badCommand t code => Sys2Proof.Machine.execBadCommand t code s
  | .transactionEndedEarly t supplied => Sys2Proof.Machine.execTransactionEndedEarly t supplied s

end Sys2Proof.Machine
end

