-- ==== Sys2Proof/Safety.lean ====
section
/-! DEFINITION. What counts as safe, and the laws of the whole machine: what holds of every state a run reaches. -/

namespace Sys2Proof.Machine

/-- A step is safe when it answers a next state. -/
def Safe (s : State) : Prop := ∃ t, step s = .next t

/-- A law is kept when every step from a state that has it ends in a state that has it. -/
def Kept (law : State → Prop) : Prop := ∀ s t, law s → step s = .next t → law t

/-! ### Entries by list -/

/-- The hold entries present, in ascending hold index (R73). -/
def State.holds (s : State) : List Hold := s.hold.toList.filterMap id

/-- The neighbour entries present, in ascending slot (R21). -/
def State.neighbours (s : State) : List Neighbour := s.table.toList.filterMap id

/-- The blocks in chains: hold entries first, then the delivery ring. -/
def State.chained (s : State) : List Block := s.holds.flatMap Hold.chain ++ s.ring.flatMap Delivery.chain

/-! ### Start-up (R180, R181, R184) -/

/-- A station that has not entered RUNNING holds its reset values, but for the event settings and statuses, the lamp
port's answer, the store's bytes and what the loader and indicator are doing. -/
def AtReset (s : State) : Prop :=
  s.record = none ∧ s.rx = .off ∧ s.tx = none ∧ s.rftx = [] ∧ s.drive = 0 ∧ s.jitter = 1
    ∧ s.table = Vector.replicate 32 none ∧ s.ranks = Vector.replicate 4 4095
    ∧ s.beacon = .stopped ∧ s.beaconSerial = 0 ∧ s.seen = [] ∧ s.hold = Vector.replicate 16 none
    ∧ s.hushQueue = [] ∧ s.hushHead = .standing ∧ s.free = List.finRange 96 ∧ s.cursor = 0
    ∧ s.power = 255 ∧ s.rate = .mid ∧ s.echoed = 0 ∧ s.unechoed = 0
    ∧ s.ring = [] ∧ s.slots = Vector.replicate 4 .free ∧ s.serial = none ∧ s.tableCursor = 0
    ∧ s.fetching = none ∧ s.masks = 0x803 ∧ s.modes = 0xFF ∧ s.latches = 0
    ∧ s.stretch = none ∧ s.burst = .stopped ∧ s.tally = none ∧ s.stats = Stats.zero

/-- The fields of a record that clamping leaves in range, and a node address that names a station (R183, R142). -/
def Record.inRange (r : Record) : Prop :=
  noStation r.node = false
    ∧ (2 ≤ r.beaconPeriod ∧ r.beaconPeriod ≤ 60) ∧ (1 ≤ r.upAfter ∧ r.upAfter ≤ 7)
    ∧ (2 ≤ r.downAfter ∧ r.downAfter ≤ 15) ∧ r.marginMin ≤ 30 ∧ (1 ≤ r.holdMin ∧ r.holdMin ≤ 31)
    ∧ r.holdSpan ≤ 255 ∧ r.jitter ≤ 15 ∧ (1 ≤ r.spreadQuota ∧ r.spreadQuota ≤ 7) ∧ r.retryLimit ≤ 3
    ∧ (1 ≤ r.maxHops ∧ r.maxHops ≤ 31) ∧ (1 ≤ r.ccaMs ∧ r.ccaMs ≤ 8) ∧ r.busyLevel ≤ 63
    ∧ (1 ≤ r.preambleUnits ∧ r.preambleUnits ≤ 15) ∧ rateCode r.startRate ≤ rateCode r.maxRate
    ∧ (2 ≤ r.downshiftAfter ∧ r.downshiftAfter ≤ 7) ∧ (4 ≤ r.upshiftAfter ∧ r.upshiftAfter ≤ 31)
    ∧ r.powerFloor ≤ r.powerCeiling ∧ r.powerCeiling ≤ 255 ∧ (1 ≤ r.powerStep ∧ r.powerStep ≤ 32)
    ∧ (2 ≤ r.denseAbove ∧ r.denseAbove ≤ 32) ∧ r.sparseBelow < r.denseAbove
    ∧ (r.stretch = 50 ∨ r.stretch = 100 ∨ r.stretch = 200 ∨ r.stretch = 400)

/-- The station state, the loader, the record and the indicator's alternation agree, and a station before RUNNING is
at its reset values (R180, R181, R173). -/
def StartLaw (s : State) : Prop :=
  match s.station with
  | .loading => AtReset s ∧ s.loader ≠ .idle ∧ s.alternation = none
  | .awaitingConfig => AtReset s ∧ s.loader = .idle ∧ s.alternation.isSome
  | .running | .silent => (∃ r, s.record = some r ∧ r.inRange) ∧ s.loader = .idle ∧ s.alternation = none

/-! ### Laws of the blocks, each with the start-up law where it needs it -/

/-- The jitter generator is never zero (R20). -/
def JitterLaw (s : State) : Prop := StartLaw s ∧ s.jitter ≠ 0

/-- The store's bytes keep their canonical form (log 6). -/
def StoreForm (s : State) : Prop := Memory.wf s.mem

/-- Every block is on the free list or in exactly one chain, and each of them once (R118). -/
def BlockLaw (s : State) : Prop := (s.free ++ s.chained).Perm (List.finRange 96)

/-- Every chain has as many blocks as its payload needs, and no payload is above 112 bytes (R117). -/
def ChainLaw (s : State) : Prop :=
  (∀ e ∈ s.holds, e.length ≤ 112 ∧ e.chain.length = blocksFor e.length)
    ∧ ∀ d ∈ s.ring, d.length ≤ 112 ∧ d.chain.length = blocksFor d.length

/-- Two entries of the neighbour table never share an address, none is the own address, and every field keeps its
range (R21, R41). -/
def TableLaw (s : State) : Prop :=
  StartLaw s ∧ (s.neighbours.map Neighbour.address).Nodup
    ∧ ∀ n ∈ s.neighbours, n.address ≠ s.own ∧ noStation n.address = false
      ∧ (1 ≤ n.history.length ∧ n.history.length ≤ 16) ∧ n.heardStreak ≤ 7 ∧ n.missStreak ≤ 15
      ∧ n.missesNoted ≤ 15 ∧ n.marginAvg ≤ 63 ∧ (2 ≤ n.period ∧ n.period ≤ 60)

/-- The own ranks are those formed from the table as it stands (R44, R47). -/
def RankLaw (s : State) : Prop := StartLaw s ∧ s.ranks = s.formedRanks

/-- The seen list holds at most 64 entries, no identity twice; hold entries and PENDING seen entries match one to one
(R60, R64). -/
def SeenLaw (s : State) : Prop :=
  s.seen.length ≤ 64 ∧ (s.seen.map Seen.ident).Nodup ∧ (s.holds.map Hold.ident).Nodup
    ∧ (∀ e ∈ s.holds, ∃ x ∈ s.seen, x.ident = e.ident ∧ x.status = .pending)
    ∧ ∀ x ∈ s.seen, x.status = .pending → ∃ e ∈ s.holds, e.ident = x.ident

/-- The delivery ring holds at most 8 entries, the HUSH queue at most 4, and every tally and counter keeps its range
(R111, R146, R179). -/
def CountLaw (s : State) : Prop :=
  s.ring.length ≤ 8 ∧ s.hushQueue.length ≤ 4
    ∧ s.stats.framesGood ≤ 9999 ∧ s.stats.framesBad ≤ 255 ∧ s.stats.relayed ≤ 65535 ∧ s.stats.suppressed ≤ 65535
    ∧ s.stats.hushed ≤ 65535 ∧ s.stats.abandoned ≤ 65535 ∧ s.stats.droppedNoBuffer ≤ 65535
    ∧ s.stats.droppedOther ≤ 65535 ∧ s.stats.deliveryOverflow ≤ 255 ∧ s.stats.tableRefused ≤ 255
    ∧ s.stats.hushLost ≤ 255 ∧ s.stats.ownEchoOrStale ≤ 255
    ∧ ∀ y, s.tally = some y → y.heard ≤ 65535 ∧ y.missing ≤ 65535 ∧ y.marginAvg ≤ 63

/-- The power code lies within its floor and ceiling, the rate level is never above MAX_RATE, and each streak stands
below its threshold, at most one of them above 0 (R142, and the streaks of section 8.2). -/
def AdaptLaw (s : State) : Prop :=
  StartLaw s ∧ s.cfg.powerFloor ≤ s.power ∧ s.power ≤ s.cfg.powerCeiling ∧ rateCode s.rate ≤ rateCode s.cfg.maxRate
    ∧ s.echoed < s.cfg.upshiftAfter ∧ s.unechoed < s.cfg.downshiftAfter ∧ (s.echoed = 0 ∨ s.unechoed = 0)

/-- Every PENDING slot is named by exactly one hold entry, whose serial it holds; a hold entry that names a slot is an
own message and finds it PENDING (R152). -/
def SlotLaw (s : State) : Prop :=
  (∀ k : Fin 4, ∀ v, s.slots[k] = .pending v →
      ∃ i : Fin 16, ∃ e, s.hold[i] = some e ∧ e.slot = some k ∧ e.ident.serial = v
        ∧ ∀ j : Fin 16, ∀ e', s.hold[j] = some e' → e'.slot = some k → j = i)
    ∧ ∀ e ∈ s.holds, ∀ k, e.slot = some k → e.senderRank = none ∧ s.slots[k] = .pending e.ident.serial

/-- The part transmits only while RUNNING, but for a frame past ASSESSING when SILENCE was taken; the receiver is OFF
exactly before RUNNING and while a frame is past ASSESSING (R8, R14, R17). -/
def RadioLaw (s : State) : Prop :=
  StartLaw s
    ∧ (∀ a, s.tx = some a → s.station = .running ∨ s.station = .silent ∧ a.pastAssessing)
    ∧ (s.rx = .off ↔ (s.station = .loading ∨ s.station = .awaitingConfig) ∨ s.tx.any Attempt.pastAssessing)

/-- While the station is RUNNING and the transmitter IDLE no request stands: a request is granted at once (R15). -/
def GrantLaw (s : State) : Prop :=
  StartLaw s ∧ (s.station = .running → s.tx = none → s.nextRequest = none)

/-- The attempt in progress and the owners' records agree on who is in attempt (R15, R18, R19). -/
def OwnerLaw (s : State) : Prop :=
  StartLaw s
    ∧ ((∃ r, s.beacon = .inAttempt r) ↔ s.tx.any fun a => a.owner = .beacon)
    ∧ ((s.hushHead = .inAttempt ↔ s.tx.any fun a => a.owner = .hush) ∧ (s.hushQueue = [] → s.hushHead = .standing))
    ∧ (s.burst = .inAttempt ∨ s.burst = .ending ↔ s.tx.any fun a => a.owner = .survey)
    ∧ (s.burst = .ending → s.tx.any Attempt.pastAssessing)
    ∧ (∀ a, s.tx = some a → ∀ i, a.owner = .hold i → s.hold[i].isSome)
    ∧ ∀ i : Fin 16, ∀ e, s.hold[i] = some e →
      (e.state = .assessing ↔ s.tx.any fun a => a.owner = .hold i ∧ a.phase = .assessing)
        ∧ (e.state = .sending ↔ s.tx.any fun a => a.owner = .hold i ∧ a.pastAssessing)

/-- Attempts and defers stay within their limits; an UPWARD entry being sent or waiting for its echo has a transmit
rank, and only an UPWARD entry waits for one (R89, R94). -/
def HoldLaw (s : State) : Prop :=
  OwnerLaw s ∧ ∀ e ∈ s.holds, e.attempts ≤ s.cfg.retryLimit + 1 ∧ e.defers < 15
    ∧ (e.state = .holding ∨ e.state = .ready ∨ e.state = .assessing → e.attempts ≤ s.cfg.retryLimit)
    ∧ (e.state = .awaitingEcho → e.goal.discipline = .upward)
    ∧ (e.state = .sending ∨ e.state = .awaitingEcho → e.goal.discipline = .upward → e.transmitRank.isSome)

/-- A masked source's status is 0, an unlatched level source's status is its condition, and a latched one's is set
while the condition holds: the event unit has nothing left to do (R169, R170). -/
def EventLaw (s : State) : Prop := s.settle = s

end Sys2Proof.Machine
end

