-- ==== Sys2Proof/WellFormed.lean ====
section
/-! DEFINITION. Which terms of Instr spell an event the part can meet (log 19). -/

namespace Sys2Proof

/-- The checks a command meets, each from the rule that lays its operands out. -/
def Instr.wellFormed : Instr → Bool
  | .powerOn _ => true
  | .resetLine _ => true
  | .resetRelease _ => true
  | .configStatusPoll _ _ => true
  | .configLoadTimeout _ => true
  | .configReadDone _ driven => driven.length ≤ 48
  | .preambleDetected _ rate unit => unit = trainingUnit || unit = startMarkOf rate
  | .startMark _ => true
  | .preambleEndNoFrame _ unit => unit ≠ trainingUnit
  | .carryHeaderComplete _ _ => true
  | .frameLost loss =>
    Machine.lostLevel loss.levels && !Machine.lostLevel loss.levels.dropLast
      && loss.levels.length < Machine.frameBitTimes (12 + 112)
  | .beaconReceived _ _ _ levels => levels.length = Machine.frameBitTimes 10
  | .carryReceived _ header payload _ levels =>
    payload.length = header.length.toNat && levels.length = Machine.frameBitTimes (12 + payload.length)
  | .hushReceived _ _ _ levels => levels.length = Machine.frameBitTimes 6
  | .surveyReceived _ header fill _ levels =>
    fill.length = header.fill.toNat && levels.length = Machine.frameBitTimes (5 + fill.length)
  | .busyLevelRise _ _ => true
  | .ccaClear _ => true
  | .settlingEnd _ => true
  | .preambleSent _ => true
  | .bodyEnd _ => true
  | .neighbourDueExpiry _ _ => true
  | .beaconDueExpiry _ => true
  | .beaconBackoffExpiry _ => true
  | .beaconReplacementExpiry _ => true
  | .holdDeadlineExpiry _ _ => true
  | .echoDeadlineExpiry _ _ => true
  | .hushBackoffExpiry _ => true
  | .surveyIntervalExpiry _ => true
  | .surveyBackoffExpiry _ => true
  | .stretchExpiry _ => true
  | .indicatorAlternation _ => true
  | .lselRiseAbort _ => true
  | .status _ => true
  | .configure _ bytes => bytes.length = 47
  | .submit _ _ _ _ _ payload => payload.length ≤ 255
  | .originStatus _ _ => true
  | .fetch _ _ => true
  | .release _ => true
  | .readEvents _ => true
  | .clearEvents _ _ => true
  | .setEvents _ _ _ _ => true
  | .readTable _ => true
  | .readStats _ _ => true
  | .silence _ => true
  | .resume _ => true
  | .survey _ _ _ _ _ => true
  | .stopSurvey _ => true
  | .readSurvey _ _ => true
  | .restart _ => true
  | .badCommand _ code => !commandCodes.contains code
  | .transactionEndedEarly _ supplied => supplied < 64

end Sys2Proof
end

