-- ==== Sys2Proof/Certificates/Slice0/Obligations.lean ====
section
/-! DEFINITION. The statements for the provers. A frame is written `u = { s with f := u.f, … }`: every field of `u` that
is not named is that of `s`. -/

section Slice0Statements

open Sys2Proof Sys2Proof.Machine

/-! ### Words the statements share -/

/-- No request stands while the station is RUNNING and the transmitter IDLE: what GrantLaw keeps (R15). -/
def Sys2Proof.Claim.Quiet (s : State) : Prop := s.station = .running → s.tx = none → s.nextRequest = none

/-- The state in which the seen list takes a good CARRY or HUSH: counted, the receiver SEARCHING, and the neighbour
table done with it (R12, R13). -/
def Sys2Proof.Claim.heard (s : State) (t : Time) (sender : Address) (levels : List Int) : State :=
  ((s.advance t).takeGood).takeMargin sender (marginOf levels)

/-- frames_good counted once (R12). -/
def Sys2Proof.Claim.good (c : Stats) : Stats := { c with framesGood := (c.framesGood + 1) % 10000 }

/-- frames_bad counted once (R10). -/
def Sys2Proof.Claim.bad (c : Stats) : Stats := { c with framesBad := min 255 (c.framesBad + 1) }

/-- From `s` to `u` the hold entry `e` at index `i` is gone: its chain is at the tail of the free list, its seen entry
has `status`, and its slot, if any, holds `outcome` (R75, R157). -/
def Sys2Proof.Claim.Gone (s u : State) (i : Fin 16) (e : Hold) (status : SeenStatus) (outcome : Option SlotOutcome) :
    Prop :=
  u.hold[i] = none ∧ u.free = s.free ++ e.chain ∧ (∃ x, u.findSeen e.ident = some x ∧ x.status = status)
    ∧ ∀ k o, e.slot = some k → outcome = some o → u.slots[k] = .complete e.ident.serial o e.attempts

/-- From `s` to `u` the hold entry `e` at index `i` is removed, alone. -/
def Sys2Proof.Claim.Removed (s u : State) (i : Fin 16) (e : Hold) (status : SeenStatus) (outcome : Option SlotOutcome) :
    Prop :=
  Claim.Gone s u i e status outcome ∧ ∀ j : Fin 16, j ≠ i → u.hold[j] = s.hold[j]

/-- Every byte of the message store reads in `u` as in `s`, but for those of the blocks in `chain` (R117, R120). -/
def Sys2Proof.Claim.OtherBytesKept (s u : State) (chain : List Block) : Prop :=
  ∀ x, (∀ b ∈ chain, x / 16 ≠ b.1) → Memory.read u.mem x = Memory.read s.mem x

/-- The status of the transition source with bit `b` after an event that reports a transition of it or not: set where
the source is unmasked and it was set or is reported (R168). -/
def Sys2Proof.Claim.Told (s u : State) (b : Nat) (reported : Prop) : Prop :=
  u.statuses.getLsbD b ↔ s.masks.getLsbD b ∧ (s.statuses.getLsbD b ∨ reported)

/-- The statuses of NEIGHBOURS and REACH0..3 after an event of the neighbour table: NEIGHBOURS as reported (R38); REACH by
its trigger mode, a loss or a gain where the rank crosses 4095 (R48), or in LEVEL the rank at 4095 (R49, R169). -/
def Sys2Proof.Claim.TableTold (s u : State) (neighbours : Prop) : Prop :=
  Claim.Told s u 7 neighbours
    ∧ ∀ a : Fin 4,
      let mode := triggerMode s.modes a
      let b := 3 + a.1
      (mode = 0 → (u.statuses.getLsbD b
        ↔ s.masks.getLsbD b ∧ (u.ranks[a] = 4095 ∨ s.latches.getLsbD b ∧ s.statuses.getLsbD b)))
      ∧ (mode ≠ 0 → Claim.Told s u b
        ((mode = 1 ∨ mode = 3) ∧ s.ranks[a] ≠ 4095 ∧ u.ranks[a] = 4095
          ∨ (mode = 2 ∨ mode = 3) ∧ s.ranks[a] = 4095 ∧ u.ranks[a] ≠ 4095))

/-- Rate control after an echoed outcome: the unechoed streak 0, the echoed streak one up; where that reaches
UPSHIFT_AFTER it returns to 0, and below MAX_RATE the level rises by one and RATE_CHANGE is told (R136, R138). -/
def Sys2Proof.Claim.EchoTold (s u : State) : Prop :=
  u.unechoed = 0
    ∧ (s.echoed + 1 < s.cfg.upshiftAfter → u.echoed = s.echoed + 1 ∧ u.rate = s.rate ∧ Claim.Told s u 8 False)
    ∧ (s.cfg.upshiftAfter ≤ s.echoed + 1 → u.echoed = 0
      ∧ (rateCode s.rate < rateCode s.cfg.maxRate → rateCode u.rate = rateCode s.rate + 1 ∧ Claim.Told s u 8 True)
      ∧ (rateCode s.cfg.maxRate ≤ rateCode s.rate → u.rate = s.rate ∧ Claim.Told s u 8 False))

/-- The receiver is between detection and start mark, or RECEIVING: a grant made now is judged busy at once (R16). -/
def Sys2Proof.Claim.Engaged (s : State) : Prop := ∃ r, s.rx = .awaiting r ∨ s.rx = .receiving r

/-- The backoff deadline of the next draw in the millisecond `m` (R18). -/
def Sys2Proof.Claim.backoff (s : State) (m : Millis) : Millis :=
  m + (2 + (jitterStep s.jitter).toNat % (s.cfg.jitter + 1))

/-- The lamp port's answer `bytes`, and nothing else (R161). -/
def Sys2Proof.Claim.answered (s : State) (t : Time) (bytes : List Byte) : State :=
  { s with now := max s.now t, response := bytes, fetching := none }

/-- The state after power-on, the reset line or RESTART, before a record is taken (R181, R186). -/
def Sys2Proof.Claim.cleared (s : State) (t : Time) : State :=
  { State.reset with now := max s.now t, pending := s.pending, mem := s.mem, unstated := s.unstated }

/-- From `s` to `u` the record `r` is accepted in the millisecond `m`: every block has taken it, and nothing else has
changed but the lamp port's answer (R184). Of the statuses but CONFIG_FAULT, a masked source's is 0, a level source's is
its condition or, latched, what was kept of it, and a transition source's is what was kept of it: none where its trigger
mode changed (R170). -/
def Sys2Proof.Claim.Accepted (r : Record) (m : Millis) (s u : State) : Prop :=
  u.record = some r ∧ u.station = .running ∧ u.loader = .idle ∧ u.rx = .searching
    ∧ u.jitter = jitterStep r.node
    ∧ u.beacon = .waiting (m + (1000 + (jitterStep r.node).toNat % 256))
    ∧ (∀ a : Fin 4, u.ranks[a] = if r.role = .anchor ∧ a = r.anchorIndex then 0 else s.ranks[a])
    ∧ u.power = r.powerCeiling ∧ u.rate = r.startRate ∧ u.echoed = 0 ∧ u.unechoed = 0
    ∧ u.masks = r.eventMasks ∧ u.modes = r.triggerModes ∧ u.latches = r.latchFlags ∧ u.alternation = none
    ∧ (∀ b, b < 11 →
      let changed := ∃ a : Fin 4, b = 3 + a.1 ∧ triggerMode s.modes a ≠ triggerMode r.triggerModes a
      let kept := s.statuses.getLsbD b = true ∧ ¬changed
      (r.eventMasks.getLsbD b = false → u.statuses.getLsbD b = false)
      ∧ (r.eventMasks.getLsbD b = true → (levelWord r.triggerModes).getLsbD b = true →
          (u.statuses.getLsbD b = true ↔ u.conditionWord.getLsbD b = true ∨ r.latchFlags.getLsbD b = true ∧ kept))
      ∧ (r.eventMasks.getLsbD b = true → (levelWord r.triggerModes).getLsbD b = false →
          (u.statuses.getLsbD b = true ↔ kept)))
    ∧ u = { s with
        now := u.now, record := u.record, station := u.station, loader := u.loader, rx := u.rx, jitter := u.jitter,
        beacon := u.beacon, ranks := u.ranks, power := u.power, rate := u.rate, echoed := u.echoed,
        unechoed := u.unechoed, masks := u.masks, modes := u.modes, latches := u.latches,
        alternation := u.alternation, statuses := u.statuses, response := u.response, fetching := u.fetching }

/-- The bytes the lamp controller clocks in for a command of the lamp port, as R162's table lays them out. -/
def Sys2Proof.Claim.clockedIn : Instr → Option (List Byte)
  | .status _ => some [0x01]
  | .configure _ bytes => some (0x02 :: bytes)
  | .submit _ discipline target dest hops payload => some ([0x10, discipline, target, dest.extractLsb' 8 8,
      dest.setWidth 8, hops, BitVec.ofNat 8 payload.length] ++ payload)
  | .originStatus _ slot => some [0x11, slot]
  | .fetch _ n => some [0x20, n]
  | .release _ => some [0x21]
  | .readEvents _ => some [0x30]
  | .clearEvents _ w => some [0x31, w.extractLsb' 8 8, w.setWidth 8]
  | .setEvents _ w modes l => some [0x32, w.extractLsb' 8 8, w.setWidth 8, modes, l.extractLsb' 8 8, l.setWidth 8]
  | .readTable _ => some [0x40]
  | .readStats _ clear => some [0x41, clear]
  | .silence _ => some [0x50]
  | .resume _ => some [0x51]
  | .survey _ count interval rate fill => some [0x60, count.extractLsb' 8 8, count.setWidth 8,
      interval.extractLsb' 8 8, interval.setWidth 8, rate, fill]
  | .stopSurvey _ => some [0x61]
  | .readSurvey _ clear => some [0x62, clear]
  | .restart _ => some [0x7E]
  | .badCommand _ code => some [code]
  | _ => none

/-- The answer R163's table gives a command by station state; `none` where the command is taken, or is no command. -/
def Sys2Proof.Claim.lampAnswer : Instr → Station → Option Byte
  | .configure _ bytes, .loading => if bytes.length < 47 then none else some 0x01
  | .configure _ bytes, .running => if bytes.length < 47 then none else some 0x02
  | .configure _ bytes, .silent => if bytes.length < 47 then none else some 0x02
  | .restart _, .loading => some 0x01
  | .submit .., .silent => some 0x09
  | .survey .., .silent => some 0x09
  | .silence _, .silent => some 0x02
  | .resume _, .running => some 0x02
  | .submit .., .loading | .submit .., .awaitingConfig => some 0x01
  | .survey .., .loading | .survey .., .awaitingConfig => some 0x01
  | .silence _, .loading | .silence _, .awaitingConfig => some 0x01
  | .resume _, .loading | .resume _, .awaitingConfig => some 0x01
  | .originStatus .., .loading | .originStatus .., .awaitingConfig => some 0x01
  | .fetch .., .loading | .fetch .., .awaitingConfig => some 0x01
  | .release _, .loading | .release _, .awaitingConfig => some 0x01
  | .readEvents _, .loading | .readEvents _, .awaitingConfig => some 0x01
  | .clearEvents .., .loading | .clearEvents .., .awaitingConfig => some 0x01
  | .setEvents .., .loading | .setEvents .., .awaitingConfig => some 0x01
  | .readTable _, .loading | .readTable _, .awaitingConfig => some 0x01
  | .readStats .., .loading | .readStats .., .awaitingConfig => some 0x01
  | .stopSurvey _, .loading | .stopSurvey _, .awaitingConfig => some 0x01
  | .readSurvey .., .loading | .readSurvey .., .awaitingConfig => some 0x01
  | _, _ => none

/-! ### The queue -/

/-- A step takes the command at the front of the queue and runs it on the state with the queue's rest; an empty queue
idles, which is the model's choice (log 4). -/
def Obligations.StepTakesTheFrontCommand : Prop :=
  (∀ (c : Instr) (rest : List Instr) (s : State), s.pending = c :: rest →
      step s = exec c { s with pending := rest })
    ∧ ∀ s : State, s.pending = [] → step s = .next s

/-- Every command, in every state, ends in a next state with the queue as it was and the time moved on, never back.
The time operand is the model's choice (log 1). That no command stops the part is deduced (log 22); that this holds of
ill-formed terms (log 19) and of states no run reaches (log 20) is the model's choice. -/
def Obligations.EveryCommandKeepsQueueAndMovesTime : Prop :=
  ∀ (c : Instr) (s : State), ∃ u, exec c s = .next u ∧ u.pending = s.pending ∧ u.now = max s.now c.time

/-! ### Start-up and configuration -/

/-- State.reset holds the values of section 11.4 (power-on or reset line). The model's own choices among them are the
STANDING head of an empty HUSH queue (log 5), the store with nothing listed (log 6) and no FETCH open (log 7).
State.reset has every law. -/
def Obligations.ResetHasItsValuesAndEveryLaw : Prop :=
  (AtReset State.reset ∧ State.reset.station = .loading ∧ State.reset.statuses = 0 ∧ State.reset.alternation = none
      ∧ State.reset.mem = [])
    ∧ (StartLaw State.reset ∧ JitterLaw State.reset ∧ StoreForm State.reset ∧ BlockLaw State.reset ∧ ChainLaw State.reset
      ∧ TableLaw State.reset ∧ RankLaw State.reset ∧ SeenLaw State.reset ∧ CountLaw State.reset
      ∧ AdaptLaw State.reset ∧ SlotLaw State.reset ∧ RadioLaw State.reset ∧ GrantLaw State.reset
      ∧ OwnerLaw State.reset ∧ HoldLaw State.reset ∧ EventLaw State.reset)

/-- POWER_ON and RESET_LINE are alike: every block at its reset value, the record discarded, the store's bytes not
cleared. RESTART in AWAITING_CONFIG, RUNNING or SILENT: every block at its reset value; a kept record is accepted
again, as it stands and without CONFIG_FAULT, and every status is 0 but that of an unmasked REACH source in mode LEVEL
whose rank is 4095; with none the station is in AWAITING_CONFIG, indicator on. The zeros of the
burst record and the head of the empty HUSH queue (log 5), the store's bytes kept at power-on too (log 6) and the empty
answer (log 7) are the model's choice. -/
def Obligations.ResetsReturnEveryBlock : Prop :=
  (∀ (t : Time) (s : State), exec (.powerOn t) s = .next (Claim.cleared s t)
      ∧ exec (.resetLine t) s = .next (Claim.cleared s t))
    ∧ (∀ (t : Time) (s : State), s.station ≠ .loading →
      (s.record = none → exec (.restart t) s = .next { Claim.cleared s t with
          station := .awaitingConfig, loader := .idle, alternation := some ⟨true, max s.now t / 96 + 250⟩,
          response := [0x00] })
      ∧ ∀ r, s.record = some r → ∃ u, exec (.restart t) s = .next u ∧ u.now = max s.now t
          ∧ Claim.Accepted r (max s.now t / 96) (Claim.cleared s t) u
          ∧ u.response = [0x00] ∧ u.fetching = none
          ∧ ∀ b, b < 12 → (u.statuses.getLsbD b = true ↔ r.eventMasks.getLsbD b = true
            ∧ ∃ a : Fin 4, b = 3 + a.1 ∧ triggerMode r.triggerModes a = 0 ∧ u.ranks[a] = 4095))

/-- RESET_RELEASE begins the load; a status byte with bit 0 clear within 25 ms begins the read, one with bit 0 set does
not, nor does one after the 25 ms; 25 ms without a ready answer end in AWAITING_CONFIG, indicator on, no event raised. That
the 25th millisecond is open to both is deduced (log 17). The memory pins, half period by half period of CMCLK: CMSEL is
low from the first bit of a status read (16 bits) or of the data read (408 bits) to its last and high between transactions
and otherwise; CMCLK is low while idle and rises once in each bit; CMDO sends 05 hex, or 03 hex and 0000 hex,
most-significant bit first. The bits of CMDI, high where undriven, are the status byte or the 48 bytes, most-significant
bit first. No time between transactions and no level of CMDO where it sends nothing is given or chosen (log 23). -/
def Obligations.LoadPollsForTwentyFiveMilliseconds : Prop :=
  (∀ (t : Time) (status : Byte) (since : Millis) (s : State),
    (s.loader = .held → s.station = .loading →
      exec (.resetRelease t) s = .next { s with now := max s.now t, loader := .polling (max s.now t / 96) })
    ∧ (s.loader = .polling since → status.getLsbD 0 = false → max s.now t / 96 ≤ since + 25 →
      exec (.configStatusPoll t status) s = .next { s with now := max s.now t, loader := .reading })
    ∧ (s.loader = .polling since → status.getLsbD 0 = true →
      exec (.configStatusPoll t status) s = .next { s with now := max s.now t })
    ∧ (s.loader = .polling since → since + 25 < max s.now t / 96 →
      exec (.configStatusPoll t status) s = .next { s with now := max s.now t })
    ∧ (s.loader = .polling since → since + 25 ≤ max s.now t / 96 →
      exec (.configLoadTimeout t) s = .next { s with
        now := max s.now t, station := .awaitingConfig, loader := .idle,
        alternation := some ⟨true, max s.now t / 96 + 250⟩ }))
    ∧ ∀ s : State,
      (s.memorySelected none = false ∧ s.memoryClock none = false ∧ s.memoryData none = none)
      ∧ (∀ half, s.loader = .held ∨ s.loader = .idle →
        s.memorySelected (some half) = false ∧ s.memoryClock (some half) = false ∧ s.memoryData (some half) = none)
      ∧ (∀ half since, s.loader = .polling since →
        (s.memorySelected (some half) = true ↔ half < 32)
        ∧ (s.memoryClock (some half) = true ↔ half < 32 ∧ half % 2 = 1)
        ∧ s.memoryData (some half) = if half < 16 then some ((0x05#8).getMsbD (half / 2)) else none)
      ∧ (∀ half, s.loader = .reading →
        (s.memorySelected (some half) = true ↔ half < 816)
        ∧ (s.memoryClock (some half) = true ↔ half < 816 ∧ half % 2 = 1)
        ∧ s.memoryData (some half) = if half < 48 then some ((0x030000#24).getMsbD (half / 2)) else none)
      ∧ ∀ (t : Time) (cmdi : List (Option Bool)),
        (∀ since status, s.loader = .polling since → cmdi.length = 16 →
          (∀ k, k < 8 → cmdi[8 + k]?.map cmdiLevel = some (status.getMsbD k)) →
          s.memoryTransact t cmdi = { s with pending := s.pending ++ [.configStatusPoll t status] })
        ∧ (∀ driven : List Byte, s.loader = .reading → cmdi.length = 408 → driven.length = 48 →
          (∀ j k, j < 48 → k < 8 → cmdi[24 + 8 * j + k]?.map cmdiLevel = some ((driven.getD j 0).getMsbD k)) →
          s.memoryTransact t cmdi = { s with pending := s.pending ++ [.configReadDone t driven] })
        ∧ (cmdiLevel none = true ∧ ∀ level, cmdiLevel (some level) = level)

/-- CONFIG_READ_DONE: no signature ends in AWAITING_CONFIG in silence; an invalid node address ends there with
CONFIG_FAULT under the settings in force; any other record is accepted, with CONFIG_FAULT under its own settings when
a clamp was counted. -/
def Obligations.LoadJudgesTheRecordRead : Prop :=
  ∀ (t : Time) (driven : List Byte) (s : State), s.loader = .reading →
    (driven.getD 0 0xFF ≠ 0xC3#8 →
      exec (.configReadDone t driven) s = .next { s with
        now := max s.now t, station := .awaitingConfig, loader := .idle,
        alternation := some ⟨true, max s.now t / 96 + 250⟩ })
    ∧ (driven.getD 0 0xFF = 0xC3#8 → noStation (driven.getD 1 0xFF ++ driven.getD 2 0xFF) = true →
      exec (.configReadDone t driven) s = .next { s with
        now := max s.now t, station := .awaitingConfig, loader := .idle,
        alternation := some ⟨true, max s.now t / 96 + 250⟩, statuses := s.statuses ||| (s.masks &&& 0x800#12) })
    ∧ (driven.getD 0 0xFF = 0xC3#8 → noStation (driven.getD 1 0xFF ++ driven.getD 2 0xFF) = false →
      ∃ u, exec (.configReadDone t driven) s = .next u ∧ u.now = max s.now t
        ∧ Claim.Accepted (recordOf fun k => driven.getD k 0xFF) (max s.now t / 96) s u
        ∧ u.response = s.response ∧ u.fetching = s.fetching
        ∧ u.statuses.getLsbD 11 = (u.masks.getLsbD 11
            && (s.statuses.getLsbD 11 || decide (0 < clampCount fun k => driven.getD k 0xFF))))

/-- CONFIGURE in AWAITING_CONFIG: an invalid node address is answered BAD_ARGUMENT with no other effect; any other
record is accepted and answered OK; fewer than 47 argument bytes are no command. -/
def Obligations.ConfigureAcceptsAValidRecord : Prop :=
  ∀ (t : Time) (bytes : List Byte) (s : State),
    (bytes.length < 47 → exec (.configure t bytes) s = .next { s with now := max s.now t })
    ∧ (bytes.length = 47 → s.station = .awaitingConfig → noStation (bytes.getD 0 0 ++ bytes.getD 1 0) = true →
      exec (.configure t bytes) s = .next (Claim.answered s t [0x04]))
    ∧ (bytes.length = 47 → s.station = .awaitingConfig → noStation (bytes.getD 0 0 ++ bytes.getD 1 0) = false →
      ∃ u, exec (.configure t bytes) s = .next u ∧ u.now = max s.now t
        ∧ Claim.Accepted (recordOf fun k => bytes.getD (k - 1) 0) (max s.now t / 96) s u
        ∧ u.response = [0x00] ∧ u.fetching = none
        ∧ u.statuses.getLsbD 11 = (u.masks.getLsbD 11
            && (s.statuses.getLsbD 11 || decide (0 < clampCount fun k => bytes.getD (k - 1) 0))))

/-- Every field of every record is clamped on its own into its range: a value below it takes the least, one above it the
greatest, a code above the last the last; zones, event words and trigger modes are taken as they stand. Then POWER_FLOOR
is at most POWER_CEILING, SPARSE_BELOW below DENSE_ABOVE and START_RATE at most MAX_RATE. Each field that a clamp changes
counts once, and each conflict once. -/
def Obligations.RecordsAreClampedIntoRange : Prop :=
  (∀ bytes : Nat → Byte, noStation (bytes 1 ++ bytes 2) = false → (recordOf bytes).inRange)
    ∧ (∀ bytes : Nat → Byte,
      let r := recordOf bytes
      let clamped (k lo hi : Nat) : Nat := max lo (min hi (bytes k).toNat)
      r.node = bytes 1 ++ bytes 2 ∧ r.role = (if bytes 3 = 0 then .lamp else .anchor)
        ∧ r.anchorIndex.1 = clamped 4 0 3 ∧ r.zone1 = bytes 5 ∧ r.zone2 = bytes 6 ∧ r.zone3 = bytes 7
        ∧ r.zone4 = bytes 8 ∧ r.beaconPeriod = clamped 9 2 60 ∧ r.upAfter = clamped 10 1 7
        ∧ r.downAfter = clamped 11 2 15 ∧ r.marginMin = clamped 12 0 30 ∧ r.holdMin = clamped 13 1 31
        ∧ r.holdSpan = (bytes 14).toNat ∧ r.jitter = clamped 15 0 15 ∧ r.spreadQuota = clamped 16 1 7
        ∧ r.retryLimit = clamped 17 0 3 ∧ r.maxHops = clamped 18 1 31 ∧ r.ccaMs = clamped 19 1 8
        ∧ r.busyLevel = clamped 20 0 63 ∧ r.preambleUnits = clamped 21 1 15
        ∧ rateCode r.maxRate = clamped 23 0 2 ∧ rateCode r.startRate = min (clamped 22 0 2) (clamped 23 0 2)
        ∧ r.downshiftAfter = clamped 24 2 7 ∧ r.upshiftAfter = clamped 25 4 31
        ∧ r.powerCeiling = (bytes 27).toNat ∧ r.powerFloor = min (bytes 26).toNat (bytes 27).toNat
        ∧ r.powerStep = clamped 28 1 32 ∧ r.denseAbove = clamped 29 2 32
        ∧ r.sparseBelow = min (clamped 30 0 31) (clamped 29 2 32 - 1)
        ∧ r.eventMasks = (bytes 31 ++ bytes 32 : BitVec 16).setWidth 12 ∧ r.triggerModes = bytes 33
        ∧ r.latchFlags = (bytes 34 ++ bytes 35 : BitVec 16).setWidth 12
        ∧ (bytes 36 = 0 → r.indicatorMode = .off) ∧ (bytes 36 = 1 → r.indicatorMode = .reach)
        ∧ (bytes 36 = 2 → r.indicatorMode = .activity) ∧ (3 ≤ (bytes 36).toNat → r.indicatorMode = .combined)
        ∧ (bytes 37 = 0 → r.stretch = 50) ∧ (bytes 37 = 1 → r.stretch = 100) ∧ (bytes 37 = 2 → r.stretch = 200)
        ∧ (3 ≤ (bytes 37).toNat → r.stretch = 400))
    ∧ ∀ bytes : Nat → Byte,
      let clamped (k lo hi : Nat) : Nat := max lo (min hi (bytes k).toNat)
      let changed (k lo hi : Nat) : Nat := if clamped k lo hi = (bytes k).toNat then 0 else 1
      clampCount bytes = changed 3 0 1 + changed 4 0 3 + changed 9 2 60 + changed 10 1 7 + changed 11 2 15
        + changed 12 0 30 + changed 13 1 31 + changed 15 0 15 + changed 16 1 7 + changed 17 0 3 + changed 18 1 31
        + changed 19 1 8 + changed 20 0 63 + changed 21 1 15 + changed 22 0 2 + changed 23 0 2 + changed 24 2 7
        + changed 25 4 31 + changed 28 1 32 + changed 29 2 32 + changed 30 0 31 + changed 36 0 3 + changed 37 0 3
        + (if (bytes 27).toNat < (bytes 26).toNat then 1 else 0)
        + (if clamped 29 2 32 ≤ clamped 30 0 31 then 1 else 0)
        + (if clamped 23 0 2 < clamped 22 0 2 then 1 else 0)

/-! ### The receiver -/

/-- The bits of the frame that a received row takes whole, header to check, with its level readings (R1, R6). -/
def Sys2Proof.Claim.onAir : Instr → Option (List Bool × List Int)
  | .beaconReceived _ h check levels => some (beaconBits h ++ msbBits check, levels)
  | .carryReceived _ h p check levels => some (carryBits h ++ payloadBits p ++ msbBits check, levels)
  | .hushReceived _ h check levels => some (hushBits h ++ msbBits check, levels)
  | .surveyReceived _ h p check levels => some (surveyBits h ++ payloadBits p ++ msbBits check, levels)
  | _ => none

/-- Eight consecutive of the first `n` readings are below receiver sensitivity (R10). -/
def Sys2Proof.Claim.Below (levels : List Int) (n : Nat) : Prop :=
  ∃ i, i + 8 ≤ n ∧ ∀ k, k < 8 → levels.getD (i + k) 0 < 0

/-- A searching receiver that hears a training unit awaits the start mark at its rate; one that hears a start mark
receives at its rate. With no assessment in progress nothing else changes. An awaited start mark begins a frame; eight
other bits end the preamble, counting nothing. In RECEIVING the bits are read as they come: the kind from the first two, a
CARRY's or SURVEY's length from its field, then the rest; the last check bit brings the whole frame, eight bit times below
sensitivity before it (log 24) its loss, and the end of a CARRY header that header, after which a malformed one is
collected no further. Each bit takes one bit time of the rate. -/
def Obligations.PreamblesAndStartMarks : Prop :=
  (∀ (t : Time) (rate : Rate) (s : State), s.rx = .searching →
      (∃ u, exec (.preambleDetected t rate 0xAA) s = .next u ∧ u.rx = .awaiting rate
        ∧ (s.tx = none → Claim.Quiet s → s.settle = s →
            u = { s with now := max s.now t, rx := .awaiting rate }))
      ∧ ∃ u, exec (.preambleDetected t rate (startMarkOf rate)) s = .next u ∧ u.rx = .receiving rate
        ∧ (s.tx = none → Claim.Quiet s → s.settle = s →
            u = { s with now := max s.now t, rx := .receiving rate }))
    ∧ (∀ (t : Time) (rate : Rate) (unit : Byte) (s : State), s.rx = .awaiting rate →
      exec (.startMark t) s = .next { s with now := max s.now t, rx := .receiving rate }
      ∧ (unit ≠ 0xAA → unit ≠ startMarkOf rate →
          exec (.preambleEndNoFrame t unit) s = .next { s with now := max s.now t, rx := .searching }))
    ∧ (∀ (c : Instr) (bits : List Bool) (levels : List Int), c.wellFormed = true → Claim.onAir c = some (bits, levels) →
      ∀ n, n ≤ bits.length →
        let event := airEvent c.time ((bits.zip levels).take n)
        let header := n = 96 ∧ ∃ t h p check, c = .carryReceived t h p check levels
        (n = bits.length → event = some c)
          ∧ (n < bits.length → Claim.Below levels n → event = some (.frameLost ⟨c.time, levels.take n⟩))
          ∧ (n < bits.length → ¬Claim.Below levels n → ¬header → event = none)
          ∧ (¬Claim.Below levels n → n = 96 → ∀ t h p check, c = .carryReceived t h p check levels →
              event = some (.carryHeaderComplete t h)))
    ∧ ∀ (start : Time) (rate : Rate) (heard air : List (Bool × Int)) (b : Bool × Int),
      let event := airEvent (start + (heard.length + 1) * bitTime rate) (heard ++ [b])
      let goesOn := collect start rate (heard ++ [b]) air
      (∀ s : State, s.rx = .receiving rate →
          s.hear start air = { s with pending := s.pending ++ collect start rate [] air })
        ∧ collect start rate heard [] = []
        ∧ (event = none → collect start rate heard (b :: air) = goesOn)
        ∧ (∀ t h, event = some (.carryHeaderComplete t h) →
          (112 < h.length.toNat ∨ h.discipline = .upward ∧ h.target.extractLsb' 2 6 ≠ 0#6 →
            collect start rate heard (b :: air) = [.carryHeaderComplete t h])
          ∧ (h.length.toNat ≤ 112 → (h.discipline = .upward → h.target.extractLsb' 2 6 = 0#6) →
            collect start rate heard (b :: air) = .carryHeaderComplete t h :: goesOn))
        ∧ ∀ c, event = some c → (∀ t h, c ≠ .carryHeaderComplete t h) → collect start rate heard (b :: air) = [c]

/-- A CARRY header with a payload length above 112, or UPWARD with a high target bit set, and a frame lost, its level
below sensitivity for 8 consecutive bit times (one reading a bit time: log 16), are counted in frames_bad and abandoned;
any other header, and a FRAME_LOST whose readings lose no frame (log 2), changes nothing. A frame lost before its last check bit (a run that this bit completes is
not before it, log 24), not as long as its header states (a term of no frame, log 19), whose check fails, or that names no sender, no origin or (CARRY) dest node 0, is counted in frames_bad and reaches no other block. A checked frame from
the own address is counted in own_echo_or_stale and reaches no other block. That a frame to which both apply is counted
in frames_bad is deduced (log 10). -/
def Obligations.DiscardedFramesReachNoBlock : Prop :=
  (∀ (t : Time) (rate : Rate) (h : CarryHeader) (levels : List Int) (s : State), s.rx = .receiving rate →
      (Claim.Below levels levels.length → exec (.frameLost ⟨t, levels⟩) s = .next { s with
          now := max s.now t, rx := .searching, stats := Claim.bad s.stats })
      ∧ (¬Claim.Below levels levels.length → exec (.frameLost ⟨t, levels⟩) s = .next { s with now := max s.now t })
      ∧ (112 < h.length.toNat ∨ h.discipline = .upward ∧ h.target.extractLsb' 2 6 ≠ 0#6 →
          exec (.carryHeaderComplete t h) s = .next { s with
            now := max s.now t, rx := .searching, stats := Claim.bad s.stats })
      ∧ (h.length.toNat ≤ 112 → (h.discipline = .upward → h.target.extractLsb' 2 6 = 0#6) →
          exec (.carryHeaderComplete t h) s = .next { s with now := max s.now t }))
    ∧ (∀ (t : Time) (rate : Rate) (check : BitVec 16) (levels : List Int) (s : State), s.rx = .receiving rate →
      let after : State := { s with now := max s.now t, rx := .searching, stats := Claim.bad s.stats }
      let lost := Claim.Below levels (levels.length - 1)
      (∀ h, lost ∨ check ≠ frameCheck (beaconBits h) ∨ h.sender = 0 ∨ h.sender = 65535 →
        exec (.beaconReceived t h check levels) s = .next after)
      ∧ (∀ h p, lost ∨ p.length ≠ h.length.toNat ∨ check ≠ frameCheck (carryBits h ++ payloadBits p) ∨ h.sender = 0 ∨ h.sender = 65535
          ∨ h.origin = 0 ∨ h.origin = 65535 ∨ h.dest = 0 → exec (.carryReceived t h p check levels) s = .next after)
      ∧ (∀ h, lost ∨ check ≠ frameCheck (hushBits h) ∨ h.sender = 0 ∨ h.sender = 65535 ∨ h.origin = 0 ∨ h.origin = 65535 →
        exec (.hushReceived t h check levels) s = .next after)
      ∧ ∀ h p, lost ∨ p.length ≠ h.fill.toNat ∨ check ≠ frameCheck (surveyBits h ++ payloadBits p) ∨ h.sender = 0 ∨ h.sender = 65535 →
        exec (.surveyReceived t h p check levels) s = .next after)
    ∧ (∀ (t : Time) (rate : Rate) (check : BitVec 16) (levels : List Int) (s : State), s.rx = .receiving rate →
      let after : State := { s with
        now := max s.now t, rx := .searching
        stats := { s.stats with ownEchoOrStale := min 255 (s.stats.ownEchoOrStale + 1) } }
      (∀ h, beaconBad h check levels = false → h.sender = s.own → exec (.beaconReceived t h check levels) s = .next after)
      ∧ (∀ h p, carryBad h p check levels = false → h.sender = s.own →
          exec (.carryReceived t h p check levels) s = .next after)
      ∧ (∀ h, hushBad h check levels = false → h.sender = s.own → exec (.hushReceived t h check levels) s = .next after)
      ∧ ∀ h p, surveyBad h p check levels = false → h.sender = s.own →
          exec (.surveyReceived t h p check levels) s = .next after)

/-! ### The neighbour table and the ranks -/

/-- The entry made for an unknown sender (R26). -/
def Sys2Proof.Claim.newEntry (s : State) (m : Millis) (h : BeaconHeader) (levels : List Int) : Neighbour where
  address := h.sender
  standing := if s.cfg.upAfter = 1 then .up else .candidate
  history := [.heard]
  heardStreak := 1
  missStreak := 0
  missesNoted := 0
  marginAvg := marginOf levels
  ranks := #v[h.rank0, h.rank1, h.rank2, h.rank3]
  period := max 2 (min 60 h.period.toNat)
  serial := h.serial
  due := m + 1500 * max 2 (min 60 h.period.toNat)

/-- A beacon from an unknown sender takes the lowest empty slot; with none, the CANDIDATE or SILENT slot of lowest LQ,
the lowest slot between equal ones; with every entry UP it is refused and counted. NEIGHBOURS is told of an entry made UP
and of a SILENT victim, REACH of the ranks that cross 4095. -/
def Obligations.UnknownBeaconTakesASlot : Prop :=
  ∀ (t : Time) (rate : Rate) (h : BeaconHeader) (check : BitVec 16) (levels : List Int) (s : State),
    s.rx = .receiving rate → beaconBad h check levels = false → h.sender ≠ s.own → Claim.Quiet s →
    (∀ (j : Fin 32) (n : Neighbour), s.table[j] = some n → n.address ≠ h.sender) →
    (∀ i : Fin 32,
      (s.table[i] = none ∧ ∀ j : Fin 32, j < i → s.table[j].isSome)
      ∨ ((∀ j : Fin 32, s.table[j].isSome) ∧ ∃ n, s.table[i] = some n ∧ n.standing ≠ .up
        ∧ ∀ (j : Fin 32) (m : Neighbour), s.table[j] = some m → m.standing ≠ .up →
            linkQuality n.history ≤ linkQuality m.history
              ∧ (j < i → linkQuality n.history < linkQuality m.history)) →
      ∃ u, exec (.beaconReceived t h check levels) s = .next u
        ∧ u.table[i] = some (Claim.newEntry s (max s.now t / 96) h levels)
        ∧ (∀ j : Fin 32, j ≠ i → u.table[j] = s.table[j]) ∧ u.ranks = u.formedRanks
        ∧ Claim.TableTold s u (s.cfg.upAfter = 1 ∨ ∃ n, s.table[i] = some n ∧ n.standing = .silent)
        ∧ u = { s with
            now := max s.now t, rx := .searching, stats := Claim.good s.stats,
            table := u.table, ranks := u.ranks, statuses := u.statuses })
    ∧ ((∀ j : Fin 32, ∃ n, s.table[j] = some n ∧ n.standing = .up) →
      ∃ u, exec (.beaconReceived t h check levels) s = .next u ∧ Claim.TableTold s u False
        ∧ u = { s with
            now := max s.now t, rx := .searching, statuses := u.statuses,
            stats := { Claim.good s.stats with tableRefused := min 255 (s.stats.tableRefused + 1) } })

/-- A beacon from a known neighbour: a repeated serial refreshes ranks and margin alone; a gap of g marks the beacons
missed and not noted, then one HEARD, restarts the streaks and the due timer, and may bring the entry UP. NEIGHBOURS is
told of an entry that becomes UP, REACH of the ranks that cross 4095. -/
def Obligations.KnownBeaconUpdatesItsEntry : Prop :=
  ∀ (t : Time) (rate : Rate) (h : BeaconHeader) (check : BitVec 16) (levels : List Int) (s : State) (i : Fin 32)
    (n : Neighbour), s.rx = .receiving rate → beaconBad h check levels = false → h.sender ≠ s.own → Claim.Quiet s →
    s.table[i] = some n → n.address = h.sender →
    (∀ (j : Fin 32) (m : Neighbour), j ≠ i → s.table[j] = some m → m.address ≠ h.sender) →
    ∃ u n', exec (.beaconReceived t h check levels) s = .next u ∧ u.table[i] = some n'
      ∧ (∀ j : Fin 32, j ≠ i → u.table[j] = s.table[j]) ∧ (RankLaw s → u.ranks = u.formedRanks)
      ∧ Claim.TableTold s u (n.standing ≠ .up ∧ n'.standing = .up)
      ∧ u = { s with
          now := max s.now t, rx := .searching, stats := Claim.good s.stats,
          table := u.table, ranks := u.ranks, statuses := u.statuses }
      ∧ (h.serial = n.serial → n' = { n with
          ranks := #v[h.rank0, h.rank1, h.rank2, h.rank3], marginAvg := (3 * n.marginAvg + marginOf levels) / 4 })
      ∧ (h.serial ≠ n.serial → n' = { n with
          history := .heard :: (List.replicate ((h.serial - n.serial).toNat - 1 - n.missesNoted) Mark.missed
            ++ n.history).take 15
          missesNoted := 0
          missStreak := 0
          heardStreak := min 7 (n.heardStreak + 1)
          marginAvg := (3 * n.marginAvg + marginOf levels) / 4
          ranks := #v[h.rank0, h.rank1, h.rank2, h.rank3]
          period := max 2 (min 60 h.period.toNat)
          serial := h.serial
          due := max s.now t / 96 + 1500 * max 2 (min 60 h.period.toNat)
          standing := if n.standing = .candidate ∧ min 7 (n.heardStreak + 1) < s.cfg.upAfter then .candidate
            else .up })

/-- A good CARRY or HUSH moves the margin of a known sender's entry and no other field of the table, and the ranks follow;
an unknown sender leaves table and ranks alone. NEIGHBOURS is told nothing, REACH of the ranks that cross 4095. -/
def Obligations.OtherFramesMoveTheMarginAlone : Prop :=
  ∀ (t : Time) (rate : Rate) (check : BitVec 16) (levels : List Int) (s : State) (c : Instr) (sender : Address),
    s.rx = .receiving rate → sender ≠ s.own →
    ((∃ h p, c = .carryReceived t h p check levels ∧ carryBad h p check levels = false ∧ h.sender = sender)
      ∨ ∃ h, c = .hushReceived t h check levels ∧ hushBad h check levels = false ∧ h.sender = sender) →
    ((∀ (j : Fin 32) (n : Neighbour), s.table[j] = some n → n.address ≠ sender) →
      ∃ u, exec c s = .next u ∧ u.table = s.table ∧ u.ranks = s.ranks ∧ Claim.TableTold s u False)
    ∧ ∀ (i : Fin 32) (n : Neighbour), s.table[i] = some n → n.address = sender →
      (∀ (j : Fin 32) (m : Neighbour), j ≠ i → s.table[j] = some m → m.address ≠ sender) →
      ∃ u, exec c s = .next u
        ∧ u.table[i] = some { n with marginAvg := (3 * n.marginAvg + marginOf levels) / 4 }
        ∧ (∀ j : Fin 32, j ≠ i → u.table[j] = s.table[j])
        ∧ (RankLaw s → u.ranks = u.formedRanks) ∧ Claim.TableTold s u False

/-- A due timer that expires adds one MISSED mark, turns UP to SILENT, and removes a CANDIDATE or SILENT entry whose
miss streak has reached DOWN_AFTER; the ranks are formed again. NEIGHBOURS is told of a SILENT entry removed, REACH of the
ranks that cross 4095. -/
def Obligations.DueExpiryMarksAMiss : Prop :=
  ∀ (t : Time) (i : Fin 32) (s : State) (n : Neighbour), s.table[i] = some n → n.due ≤ max s.now t / 96 →
    ∃ u, exec (.neighbourDueExpiry t i) s = .next u ∧ u.ranks = u.formedRanks
      ∧ Claim.TableTold s u (n.standing = .silent ∧ s.cfg.downAfter ≤ min 15 (n.missStreak + 1))
      ∧ (∀ j : Fin 32, j ≠ i → u.table[j] = s.table[j])
      ∧ u = { s with now := max s.now t, table := u.table, ranks := u.ranks, statuses := u.statuses }
      ∧ u.table[i] = if n.standing ≠ .up ∧ s.cfg.downAfter ≤ min 15 (n.missStreak + 1) then none else some { n with
          history := (.missed :: n.history).take 16
          missesNoted := min 15 (n.missesNoted + 1)
          missStreak := min 15 (n.missStreak + 1)
          heardStreak := 0
          due := max s.now t / 96 + 1000 * n.period
          standing := if n.standing = .candidate then .candidate else .silent }

/-- LQ is min(255, 16 × H) over the HEARD marks; the link cost is 8 + floor((255 − LQ) × 3 / 32) and lies in 8..31; the
smoothed margin is floor((3 × old + new) / 4) and stays in 0..63; a frame's margin is the mean of its level readings in
whole dB, rounded down, clamped to 0..63 (readings and mean: log 16). The rank formed toward an anchor is 0 at the own
index; else the least sum of advertised rank and link cost over the usable neighbours, saturated at 4095, and 4095 with
none. -/
def Obligations.LinkQualityCostAndMargin : Prop :=
  (∀ h : List Mark, linkQuality h = min 255 (16 * (h.filter fun m => m = .heard).length))
    ∧ (∀ h : List Mark, linkCost (linkQuality h) = 8 + (255 - linkQuality h) * 3 / 32
        ∧ 8 ≤ linkCost (linkQuality h) ∧ linkCost (linkQuality h) ≤ 31)
    ∧ (∀ old new : Nat, old ≤ 63 → new ≤ 63 → smoothed old new = (3 * old + new) / 4 ∧ smoothed old new ≤ 63)
    ∧ (∀ (levels : List Int) (k : Nat), levels ≠ [] →
      (levels.sum < 1000 * levels.length → marginOf levels = 0)
      ∧ (k ≤ 62 → 1000 * k * levels.length ≤ levels.sum → levels.sum < 1000 * (k + 1) * levels.length →
          marginOf levels = k)
      ∧ (63000 * levels.length ≤ levels.sum → marginOf levels = 63))
    ∧ ∀ (s : State) (a : Fin 4),
      let own := s.cfg.role = .anchor ∧ s.cfg.anchorIndex = a
      let usableNow (n : Neighbour) : Prop :=
        (n.standing = .up ∨ n.standing = .silent) ∧ s.cfg.marginMin ≤ n.marginAvg ∧ n.ranks[a] ≠ 4095
      let sum (n : Neighbour) : Nat := min 4095 (n.ranks[a].toNat + linkCost (linkQuality n.history))
      (own → s.formedRanks[a] = 0)
        ∧ (¬own →
          (∀ (i : Fin 32) (n : Neighbour), s.table[i] = some n → usableNow n → s.formedRanks[a].toNat ≤ sum n)
          ∧ (s.formedRanks[a] = 4095
            ∨ ∃ (i : Fin 32) (n : Neighbour), s.table[i] = some n ∧ usableNow n ∧ s.formedRanks[a].toNat = sum n))

/-! ### The seen list, the relay engine, delivery, the anchor responder -/

/-- The hypotheses under which a CARRY reaches the seen list as a first copy that is not the station's own (R65). -/
def Sys2Proof.Claim.FirstCopy (s : State) (h : CarryHeader) (p : List Byte) (check : BitVec 16) (levels : List Int) :
    Prop :=
  (∃ rate, s.rx = .receiving rate) ∧ carryBad h p check levels = false ∧ h.sender ≠ s.own ∧ h.origin ≠ s.own
    ∧ p.length = h.length.toNat ∧ s.findSeen (carryIdent h) = none

/-- The seen entry of a first copy (R59). -/
def Sys2Proof.Claim.firstEntry (h : CarryHeader) (status : SeenStatus) (hushes : Nat) : Seen where
  ident := ⟨h.origin, h.serial⟩
  goal := carryGoal h
  status := status
  extraCopies := 0
  bestRank := if h.discipline = .upward then some h.senderRank else none
  hushCount := hushes

/-- The arrival decision takes its checks in the order of R76's table: addressed here, SILENT, hop budget 0, UPWARD
without progress, hold list full, too few blocks. A first copy passes the delivery test when it is SPREAD, its zone is
0 or in use here, and its dest node is 65535 or the own address. -/
def Obligations.ArrivalAndDeliveryChecks : Prop :=
  (∀ (s : State) (h : CarryHeader),
      let here := h.discipline = .spread ∧ h.dest = s.own
      let stale := ∃ a, carryGoal h = .upward a ∧ (s.ranks[a] = 4095 ∨ h.senderRank ≤ s.ranks[a])
      let full := ∀ i : Fin 16, s.hold[i].isSome
      let short := s.free.length < (h.length.toNat + 15) / 16
      (s.arrivalOf h = .addressedHere ↔ here)
        ∧ (s.arrivalOf h = .silenced ↔ ¬here ∧ s.station = .silent)
        ∧ (s.arrivalOf h = .hopLimit ↔ ¬here ∧ s.station ≠ .silent ∧ h.hops = 0)
        ∧ (s.arrivalOf h = .noProgress ↔ ¬here ∧ s.station ≠ .silent ∧ h.hops ≠ 0 ∧ stale)
        ∧ (s.arrivalOf h = .holdFull ↔ ¬here ∧ s.station ≠ .silent ∧ h.hops ≠ 0 ∧ ¬stale ∧ full)
        ∧ (s.arrivalOf h = .noBuffer ↔ ¬here ∧ s.station ≠ .silent ∧ h.hops ≠ 0 ∧ ¬stale ∧ ¬full ∧ short))
    ∧ (∀ (s : State) (h : CarryHeader), s.deliveryTest h = true ↔
      h.discipline = .spread
        ∧ (h.target = 0 ∨ h.target = s.cfg.zone1 ∨ h.target = s.cfg.zone2 ∨ h.target = s.cfg.zone3
          ∨ h.target = s.cfg.zone4)
        ∧ (h.dest = 65535 ∨ h.dest = s.own))

/-- A first copy that passes every check is held at the lowest free hold index: HOLDING until now + H with the hold-off
of R84, hop budget less one, its payload in a chain of its own from the head of the free list, its seen entry PENDING, one draw
taken. No byte of another block of the store changes; where the delivery test fails the ring stays and no other block is
taken. -/
def Obligations.FirstCopyIsHeld : Prop :=
  ∀ (t : Time) (h : CarryHeader) (p : List Byte) (check : BitVec 16) (levels : List Int) (s : State) (i : Fin 16),
    Claim.FirstCopy s h p check levels → Claim.Quiet s → BlockLaw s → StoreForm s →
    let v := Claim.heard s t h.sender levels
    v.forOwnIndex (carryGoal h) = false → v.arrivalOf h = .held →
    s.hold[i] = none → (∀ j : Fin 16, j < i → s.hold[j].isSome) →
    ∃ u e, exec (.carryReceived t h p check levels) s = .next u ∧ u.hold[i] = some e
      ∧ (∀ j : Fin 16, j ≠ i → u.hold[j] = s.hold[j])
      ∧ e = { e with
          ident := ⟨h.origin, h.serial⟩, goal := carryGoal h, dest := h.dest, hops := h.hops - 1
          senderRank := if h.discipline = .upward then some h.senderRank else none
          length := h.length.toNat, state := .holding, attempts := 0, defers := 0
          transmitRank := none, slot := none }
      ∧ e.deadline = max s.now t / 96 + (s.cfg.holdMin
          + (match carryGoal h with
            | .upward a => (64 - min (h.senderRank.toNat - v.ranks[a].toNat) 64) * s.cfg.holdSpan / 64
            | .spread _ => s.cfg.holdSpan / 2)
          + (jitterStep s.jitter).toNat % (s.cfg.jitter + 1) + 2 * s.holdCount)
      ∧ chainBytes u.mem e.chain h.length.toNat = p ∧ e.chain = s.free.take ((h.length.toNat + 15) / 16)
      ∧ Claim.OtherBytesKept s u (e.chain ++ (u.ring.drop s.ring.length).flatMap Delivery.chain)
      ∧ (s.deliveryTest h = false → u.ring = s.ring ∧ u.free = s.free.drop ((h.length.toNat + 15) / 16))
      ∧ u.seen = (s.insertSeen (Claim.firstEntry h .pending 0)).seen
      ∧ u.jitter = jitterStep s.jitter
      ∧ u = { s with
          now := max s.now t, rx := .searching, table := v.table, ranks := v.ranks, statuses := u.statuses,
          stats := u.stats, jitter := u.jitter, seen := u.seen, hold := u.hold, free := u.free, mem := u.mem,
          ring := u.ring }

/-- A first copy that is not held leaves hold list and jitter alone; the reason is counted, and the seen entry is
DELIVERED or DROPPED as the delivery ring took it or not. Where the delivery test fails nothing is stored: ring, free list
and store stay. -/
def Obligations.FirstCopyNotHeldIsCounted : Prop :=
  ∀ (t : Time) (h : CarryHeader) (p : List Byte) (check : BitVec 16) (levels : List Int) (s : State),
    Claim.FirstCopy s h p check levels → Claim.Quiet s →
    let v := Claim.heard s t h.sender levels
    v.forOwnIndex (carryGoal h) = false → v.arrivalOf h ≠ .held →
    ∃ u, exec (.carryReceived t h p check levels) s = .next u ∧ u.hold = s.hold ∧ u.jitter = s.jitter
      ∧ u.stats.framesGood = (s.stats.framesGood + 1) % 10000
      ∧ u.stats.droppedNoBuffer = (if v.arrivalOf h = .noBuffer then min 65535 (s.stats.droppedNoBuffer + 1)
          else s.stats.droppedNoBuffer)
      ∧ u.stats.droppedOther = (if v.arrivalOf h = .noBuffer ∨ v.arrivalOf h = .addressedHere then
          s.stats.droppedOther else min 65535 (s.stats.droppedOther + 1))
      ∧ u.seen = (s.insertSeen (Claim.firstEntry h
          (if s.deliveryTest h ∧ s.ring.length < 8 ∧ (h.length.toNat + 15) / 16 ≤ s.free.length then .delivered
            else .dropped) 0)).seen
      ∧ (s.deliveryTest h = false → u.ring = s.ring ∧ u.free = s.free ∧ u.mem = s.mem)
      ∧ u = { s with
          now := max s.now t, rx := .searching, table := v.table, ranks := v.ranks, statuses := u.statuses,
          stats := u.stats, seen := u.seen, free := u.free, mem := u.mem, ring := u.ring }

/-- A SPREAD first copy that passes the delivery test joins the tail of the ring with its payload in a chain of its own,
held or not: held, the relay chain is taken first and the delivery chain from what is left. A full ring or too few blocks
refuse it, and delivery_overflow counts that. No byte of a block outside the new chains changes. -/
def Obligations.DeliveryJoinsTheRing : Prop :=
  ∀ (t : Time) (h : CarryHeader) (p : List Byte) (check : BitVec 16) (levels : List Int) (s : State),
    Claim.FirstCopy s h p check levels → Claim.Quiet s → BlockLaw s → StoreForm s → s.deliveryTest h = true →
    let n := (h.length.toNat + 15) / 16
    let joins (u : State) (free : List Block) : Prop :=
      ∃ d, u.ring = s.ring ++ [d]
        ∧ d = { d with
            ident := ⟨h.origin, h.serial⟩, goal := carryGoal h, sender := h.sender, hops := h.hops
            length := h.length.toNat }
        ∧ d.chain = free.take n ∧ u.free = free.drop n
        ∧ chainBytes u.mem d.chain h.length.toNat = p ∧ u.stats.deliveryOverflow = s.stats.deliveryOverflow
    let refused (u : State) (free : List Block) : Prop :=
      u.ring = s.ring ∧ u.free = free ∧ u.stats.deliveryOverflow = min 255 (s.stats.deliveryOverflow + 1)
    ((Claim.heard s t h.sender levels).arrivalOf h ≠ .held →
      (s.ring.length < 8 → n ≤ s.free.length →
        ∃ u, exec (.carryReceived t h p check levels) s = .next u ∧ joins u s.free
          ∧ Claim.OtherBytesKept s u (s.free.take n))
      ∧ (8 ≤ s.ring.length ∨ s.free.length < n →
        ∃ u, exec (.carryReceived t h p check levels) s = .next u ∧ refused u s.free ∧ u.mem = s.mem))
    ∧ ((Claim.heard s t h.sender levels).arrivalOf h = .held →
      ∃ u i e, exec (.carryReceived t h p check levels) s = .next u
        ∧ s.hold[i] = none ∧ u.hold = setAt s.hold i (some e) ∧ e.chain = s.free.take n
        ∧ chainBytes u.mem e.chain h.length.toNat = p
        ∧ (s.ring.length < 8 → n + n ≤ s.free.length →
          joins u (s.free.drop n) ∧ Claim.OtherBytesKept s u (s.free.take (n + n)))
        ∧ (8 ≤ s.ring.length ∨ s.free.length < n + n →
          refused u (s.free.drop n) ∧ Claim.OtherBytesKept s u (s.free.take n)))

/-- At an anchor a first copy for the own index never reaches the relay engine: no hold entry, no draw, no counter but
frames_good and the one its fate names. Accepted by the ring, its payload in a chain of its own and no byte of another
block changed, it is DELIVERED with hush count 1 and a HUSH is offered, lost and counted where the queue holds 4; refused
it leaves no seen entry. -/
def Obligations.AnchorDeliversForItsOwnIndex : Prop :=
  ∀ (t : Time) (h : CarryHeader) (p : List Byte) (check : BitVec 16) (levels : List Int) (s : State),
    Claim.FirstCopy s h p check levels → Claim.Quiet s →
    s.cfg.role = .anchor → h.discipline = .upward → h.target.toNat = s.cfg.anchorIndex.1 →
    let v := Claim.heard s t h.sender levels
    ∃ u, exec (.carryReceived t h p check levels) s = .next u ∧ u.hold = s.hold ∧ u.jitter = s.jitter
      ∧ u.stats = { Claim.good s.stats with
          hushLost := u.stats.hushLost, deliveryOverflow := u.stats.deliveryOverflow }
      ∧ u = { s with
          now := max s.now t, rx := .searching, table := v.table, ranks := v.ranks, statuses := u.statuses,
          stats := u.stats, seen := u.seen, free := u.free, mem := u.mem, ring := u.ring, hushQueue := u.hushQueue,
          hushHead := u.hushHead, tx := u.tx }
      ∧ (s.ring.length < 8 → (h.length.toNat + 15) / 16 ≤ s.free.length →
        (∃ d, u.ring = s.ring ++ [d]
          ∧ d = { ident := ⟨h.origin, h.serial⟩, goal := .upward s.cfg.anchorIndex, sender := h.sender, hops := h.hops,
                  length := h.length.toNat, chain := s.free.take ((h.length.toNat + 15) / 16) }
          ∧ u.free = s.free.drop ((h.length.toNat + 15) / 16)
          ∧ (BlockLaw s → StoreForm s → chainBytes u.mem d.chain h.length.toNat = p
            ∧ Claim.OtherBytesKept s u d.chain))
        ∧ u.stats.deliveryOverflow = s.stats.deliveryOverflow
        ∧ u.seen = (s.insertSeen (Claim.firstEntry h .delivered 1)).seen
        ∧ u.hushQueue = (if s.hushQueue.length < 4 then s.hushQueue ++ [⟨h.origin, h.serial⟩] else s.hushQueue)
        ∧ u.stats.hushLost = (if s.hushQueue.length < 4 then s.stats.hushLost else min 255 (s.stats.hushLost + 1)))
      ∧ (8 ≤ s.ring.length ∨ s.free.length < (h.length.toNat + 15) / 16 →
        u.ring = s.ring ∧ u.free = s.free ∧ u.mem = s.mem ∧ u.seen = s.seen ∧ u.hushQueue = s.hushQueue
        ∧ u.hushHead = s.hushHead ∧ u.tx = s.tx ∧ u.stats.hushLost = s.stats.hushLost
        ∧ u.stats.deliveryOverflow = min 255 (s.stats.deliveryOverflow + 1))

/-- A CARRY of the own origin whose identity is not in the list is counted in own_echo_or_stale and goes no further. A
copy raises the extra copies of its seen entry, and lowers its best rank where both are UPWARD for one anchor;
discipline and target of the entry stay. At an anchor a later copy of a DELIVERED identity of the own index offers one
more HUSH and raises the hush count while that is below 2, and is ignored at 2; any other copy leaves the hush count. -/
def Obligations.StaleAndLaterCopies : Prop :=
  (∀ (t : Time) (rate : Rate) (h : CarryHeader) (p : List Byte) (check : BitVec 16) (levels : List Int) (s : State),
      s.rx = .receiving rate → carryBad h p check levels = false → h.sender ≠ s.own → h.origin = s.own →
      s.findSeen (carryIdent h) = none → Claim.Quiet s →
      let v := Claim.heard s t h.sender levels
      ∃ u, exec (.carryReceived t h p check levels) s = .next u
        ∧ u = { v with
            statuses := u.statuses
            stats := { Claim.good s.stats with
              ownEchoOrStale := min 255 (s.stats.ownEchoOrStale + 1) } })
    ∧ (∀ (t : Time) (rate : Rate) (h : CarryHeader) (p : List Byte) (check : BitVec 16) (levels : List Int) (s : State) (e : Seen),
      s.rx = .receiving rate → carryBad h p check levels = false → h.sender ≠ s.own → SeenLaw s →
      s.findSeen (carryIdent h) = some e →
      ∃ u x, exec (.carryReceived t h p check levels) s = .next u ∧ u.findSeen (carryIdent h) = some x
        ∧ x.goal = e.goal ∧ x.extraCopies = min 7 (e.extraCopies + 1)
        ∧ x.bestRank = (if e.goal = carryGoal h ∧ h.discipline = .upward then
            some (match e.bestRank with
              | some b => if h.senderRank < b then h.senderRank else b
              | none => h.senderRank)
            else e.bestRank)
        ∧ (let again := s.cfg.role = .anchor ∧ e.goal = .upward s.cfg.anchorIndex ∧ e.goal = carryGoal h
             ∧ e.status = .delivered
           (¬again ∨ 2 ≤ e.hushCount → x.hushCount = e.hushCount ∧ u.hushQueue = s.hushQueue
            ∧ u.stats.hushLost = s.stats.hushLost)
           ∧ (again → e.hushCount < 2 → x.hushCount = e.hushCount + 1
            ∧ u.hushQueue = (if s.hushQueue.length < 4 then s.hushQueue ++ [carryIdent h] else s.hushQueue)
            ∧ u.stats.hushLost = (if s.hushQueue.length < 4 then s.stats.hushLost else min 255 (s.stats.hushLost + 1))))
        ∧ (e.status ≠ .pending → x.status = e.status ∧ u.ring = s.ring))

/-- A copy of the same goal judges a PENDING entry's hold entry: in HOLDING or READY, UPWARD is suppressed by a sender
rank at most the own rank and SPREAD by SPREAD_QUOTA copies; in AWAITING_ECHO a sender rank below the transmit rank is
the echo, told to rate control; any other copy leaves the hold list. A copy whose discipline or target differs from those
of its seen entry is counted in its extra copies and changes neither its best rank nor the hold list. -/
def Obligations.CopiesJudgeTheHoldEntry : Prop :=
  (∀ (t : Time) (rate : Rate) (h : CarryHeader) (p : List Byte) (check : BitVec 16) (levels : List Int) (s : State)
    (i : Fin 16) (e : Hold) (x : Seen), s.rx = .receiving rate → carryBad h p check levels = false → h.sender ≠ s.own →
    SeenLaw s → SlotLaw s → Claim.Quiet s →
    s.hold[i] = some e → e.ident = carryIdent h → e.goal = carryGoal h →
    s.findSeen (carryIdent h) = some x → x.goal = carryGoal h →
    let v := Claim.heard s t h.sender levels
    let suppresses := match e.goal with
      | .upward a => h.senderRank ≤ v.ranks[a]
      | .spread _ => s.cfg.spreadQuota ≤ min 7 (x.extraCopies + 1)
    let waits := e.state = .holding ∨ e.state = .ready
    let echoes := e.goal.discipline = .upward ∧ ∃ r, e.transmitRank = some r ∧ h.senderRank < r
    ∃ u, exec (.carryReceived t h p check levels) s = .next u
      ∧ (waits → suppresses → Claim.Removed s u i e .suppressed (some .echoed)
          ∧ u.stats.suppressed = min 65535 (s.stats.suppressed + 1) ∧ u.echoed = s.echoed ∧ u.unechoed = s.unechoed
          ∧ u.rate = s.rate ∧ Claim.Told s u 8 False)
      ∧ (e.state = .awaitingEcho → echoes → Claim.Removed s u i e .relayed (some .echoed)
          ∧ u.stats.relayed = min 65535 (s.stats.relayed + 1) ∧ Claim.EchoTold s u)
      ∧ (¬(waits ∧ suppresses) → ¬(e.state = .awaitingEcho ∧ echoes) → u.hold = s.hold ∧ u.free = s.free))
    ∧ ∀ (t : Time) (rate : Rate) (h : CarryHeader) (p : List Byte) (check : BitVec 16) (levels : List Int) (s : State)
      (x : Seen), s.rx = .receiving rate → carryBad h p check levels = false → h.sender ≠ s.own → Claim.Quiet s →
      s.findSeen (carryIdent h) = some x → x.goal ≠ carryGoal h →
      let v := Claim.heard s t h.sender levels
      ∃ u, exec (.carryReceived t h p check levels) s = .next u ∧ u.hold = s.hold
        ∧ u.findSeen (carryIdent h) = some { x with extraCopies := min 7 (x.extraCopies + 1) }
        ∧ u = { s with
            now := max s.now t, rx := .searching, table := v.table, ranks := v.ranks, statuses := u.statuses,
            stats := Claim.good s.stats, seen := u.seen }

/-- A HUSH removes a hold entry in HOLDING or READY as hushed and is the echo of one in AWAITING_ECHO, told to rate
control; it leaves a settled identity as it is, and makes a HUSHED entry for an absent one. -/
def Obligations.HushEndsTheHold : Prop :=
  ∀ (t : Time) (rate : Rate) (h : HushHeader) (check : BitVec 16) (levels : List Int) (s : State),
    s.rx = .receiving rate → hushBad h check levels = false → h.sender ≠ s.own → Claim.Quiet s → SeenLaw s →
    SlotLaw s →
    ∃ u, exec (.hushReceived t h check levels) s = .next u ∧ u.stats.framesGood = (s.stats.framesGood + 1) % 10000
      ∧ (∀ (i : Fin 16) (e : Hold), s.hold[i] = some e → e.ident = ⟨h.origin, h.serial⟩ →
          (e.state = .holding ∨ e.state = .ready → Claim.Removed s u i e .hushed (some .echoed)
            ∧ u.stats.hushed = min 65535 (s.stats.hushed + 1) ∧ u.echoed = s.echoed ∧ u.unechoed = s.unechoed
            ∧ u.rate = s.rate)
          ∧ (e.state = .awaitingEcho → Claim.Removed s u i e .relayed (some .echoed)
            ∧ u.stats.relayed = min 65535 (s.stats.relayed + 1) ∧ Claim.EchoTold s u))
      ∧ (∀ e, s.findSeen ⟨h.origin, h.serial⟩ = some e → e.status ≠ .pending →
          u.seen = s.seen ∧ u.hold = s.hold)
      ∧ (s.findSeen ⟨h.origin, h.serial⟩ = none → u.hold = s.hold
          ∧ u.seen = (s.insertSeen ⟨⟨h.origin, h.serial⟩, .upward ⟨h.anchor.toNat, h.anchor.isLt⟩, .hushed, 0, none, 0⟩).seen)

/-- A good SURVEY frame restarts the tally for a new sender and continues it for the one it follows; nothing else but
the receiver, frames_good and SURVEY_HEARD changes. -/
def Obligations.SurveyFramesAreTallied : Prop :=
  ∀ (t : Time) (rate : Rate) (h : SurveyHeader) (fill : List Byte) (check : BitVec 16) (levels : List Int) (s : State),
    s.rx = .receiving rate → surveyBad h fill check levels = false → h.sender ≠ s.own → Claim.Quiet s →
    ∃ u y, exec (.surveyReceived t h fill check levels) s = .next u ∧ u.tally = some y
      ∧ u = { s with
          now := max s.now t, rx := .searching, stats := Claim.good s.stats, tally := u.tally,
          statuses := u.statuses }
      ∧ u.statuses.getLsbD 10 = s.masks.getLsbD 10
      ∧ (s.settle = s → u.statuses = s.statuses ||| (s.masks &&& 0x400#12))
      ∧ (∀ z, s.tally = some z → z.sender = h.sender → y = { z with
          heard := min 65535 (z.heard + 1)
          missing := min 65535 (z.missing + (h.sequence.toNat - z.last.toNat - 1))
          last := h.sequence
          marginAvg := (3 * z.marginAvg + marginOf levels) / 4 })
      ∧ ((∀ z, s.tally = some z → z.sender ≠ h.sender) →
          y = ⟨h.sender, 1, h.sequence, h.sequence, 0, marginOf levels⟩)

/-- Every hold-off lies in HOLD_MIN..HOLD_MIN + 296 ms: the progress term of an UPWARD relay is at most 251, the draw
at most 15, the queue term at most 30; half a span is at most 127. A SUBMIT's hop budget: 0 is taken as 1, one above
MAX_HOPS as MAX_HOPS, any other as given, and the result lies in 1..MAX_HOPS. -/
def Obligations.HoldOffsAndHopBudgets : Prop :=
  (∀ (r : Record) (progress draw q : Nat), r.inRange → 1 ≤ progress → q ≤ 15 →
      progressTerm r.holdSpan progress ≤ 251 ∧ draw % (r.jitter + 1) ≤ 15 ∧ 2 * q ≤ 30 ∧ r.holdSpan / 2 ≤ 127
      ∧ progressTerm r.holdSpan progress + draw % (r.jitter + 1) + 2 * q ≤ 296
      ∧ r.holdSpan / 2 + draw % (r.jitter + 1) + 2 * q ≤ 296
      ∧ progressTerm r.holdSpan progress = (64 - min progress 64) * r.holdSpan / 64)
    ∧ (∀ (maxHops : Nat) (hops : Byte), 1 ≤ maxHops → maxHops ≤ 31 →
      (hops = 0 → submitHops maxHops hops = 1)
      ∧ (maxHops < hops.toNat → submitHops maxHops hops = maxHops)
      ∧ (1 ≤ hops.toNat → hops.toNat ≤ maxHops → submitHops maxHops hops = hops.toNat)
      ∧ 1 ≤ submitHops maxHops hops ∧ submitHops maxHops hops ≤ maxHops)

/-- The jitter generator steps through non-zero values only, no two of which step to the same value, and from seed 1
first returns to 1 after 65535 steps. -/
def Obligations.JitterSequenceHasFullLength : Prop :=
  (∀ x : BitVec 16, x ≠ 0 → jitterStep x ≠ 0) ∧ (∀ x y : BitVec 16, jitterStep x = jitterStep y → x = y)
    ∧ jitterStep^[65535] 1 = 1 ∧ ∀ k, 0 < k → k < 65535 → jitterStep^[k] 1 ≠ 1

/-- A payload written into a chain of distinct blocks reads back byte by byte, and no byte of another block changes. -/
def Obligations.ChainsHoldTheirPayload : Prop :=
  ∀ (m : List Host.Cell) (chain : List Block) (p : List Byte), Memory.wf m → chain.Nodup →
    chain.length = (p.length + 15) / 16 →
    chainBytes (fillChain m chain p) chain p.length = p
      ∧ ∀ x, (∀ b ∈ chain, x / 16 ≠ b.1) → Memory.read (fillChain m chain p) x = Memory.read m x

/-! ### The transmitter and its owners -/

/-- A grant to `o` in the state `u`: ASSESSING for CCA_MS from now, at the owner's rate (R7, R15). -/
def Sys2Proof.Claim.GrantedTo (o : Owner) (rate : Rate) (s u : State) : Prop :=
  u.tx = some ⟨o, rate, .assessing, u.now + 96 * s.cfg.ccaMs⟩

/-- What the arbiter grants in `u` of the requests that stand in `v`, the transmitter IDLE and the receiver SEARCHING: a
due beacon; else a HUSH head STANDING; else the READY entry of earliest deadline, the lower index between equal ones; else
a due survey frame; else nothing. The record granted is marked as in attempt (R15, R112). -/
def Sys2Proof.Claim.GrantedInOrder (v u : State) : Prop :=
  let hush := v.hushQueue ≠ [] ∧ v.hushHead = .standing
  (∀ r, v.beacon = .due r → Claim.GrantedTo .beacon .slow v u ∧ u.beacon = .inAttempt r)
    ∧ ((∀ r, v.beacon ≠ .due r) →
      (hush → Claim.GrantedTo .hush .slow v u ∧ u.hushHead = .inAttempt)
      ∧ (¬hush →
        (∀ (i : Fin 16) (e : Hold), v.hold[i] = some e → e.state = .ready →
          (∀ (j : Fin 16) (f : Hold), v.hold[j] = some f → f.state = .ready → e.deadline < f.deadline ∨ e.deadline = f.deadline ∧ i ≤ j) →
          Claim.GrantedTo (.hold i) v.rate v u ∧ u.hold[i] = some { e with state := .assessing })
        ∧ ((∀ (i : Fin 16) (e : Hold), v.hold[i] = some e → e.state ≠ .ready) →
          (v.burst = .due → Claim.GrantedTo .survey v.burstRec.rate v u ∧ u.burst = .inAttempt)
          ∧ (v.burst ≠ .due → u.tx = none))))

/-- A free transmitter: RUNNING, IDLE, the receiver with no frame, and no other request standing (R15). -/
def Sys2Proof.Claim.FreeToGrant (s : State) : Prop :=
  s.station = .running ∧ s.tx = none ∧ s.rx = .searching ∧ s.nextRequest = none

/-- A busy judgement, by a training unit, by a start mark or by a level above BUSY_LEVEL, ends the attempt: the owner
backs off by 2 ms and a draw, a hold entry's defers rise, and at 15 it is DROPPED with CHANNEL_BUSY and no draw. With no
other request standing one draw is taken and the transmitter is IDLE. A level that does not rise above BUSY_LEVEL changes
nothing; that one that rises with no assessment in progress changes nothing is deduced (log 11). -/
def Obligations.BusyJudgementDefersTheOwner : Prop :=
  (∀ (t : Time) (rate : Rate) (level : Int) (s : State) (a : Attempt) (c : Instr), s.tx = some a →
      a.phase = .assessing → s.rx = .searching → OwnerLaw s → SeenLaw s → SlotLaw s →
      (c = .preambleDetected t rate 0xAA ∨ c = .preambleDetected t rate (startMarkOf rate) ∨ c = .busyLevelRise t level ∧ 1000 * (s.cfg.busyLevel : Int) < level) →
      let backoff := max s.now t / 96 + (2 + (jitterStep s.jitter).toNat % (s.cfg.jitter + 1))
      ∃ u, exec c s = .next u
        ∧ (a.owner = .beacon → ∀ r, s.beacon = .inAttempt r → u.beacon = .backoff backoff r)
        ∧ (a.owner = .hush → u.hushHead = .backoff backoff ∧ u.hushQueue = s.hushQueue)
        ∧ (a.owner = .survey → u.burst = .backoff backoff ∧ u.burstRec = s.burstRec)
        ∧ (∀ i e, a.owner = .hold i → s.hold[i] = some e →
            (e.defers + 1 < 15 →
              u.hold[i] = some { e with state := .holding, deadline := backoff, defers := e.defers + 1 })
            ∧ (15 ≤ e.defers + 1 → u.hold[i] = none ∧ (∃ x, u.findSeen e.ident = some x ∧ x.status = .dropped)
                ∧ ∀ k, e.slot = some k → u.slots[k] = .complete e.ident.serial (.dropped .channelBusy) e.attempts))
        ∧ (s.nextRequest = none → u.tx = none
            ∧ ((∀ i e, a.owner = .hold i → s.hold[i] = some e → e.defers + 1 < 15) → u.jitter = jitterStep s.jitter)
            ∧ ∀ i e, a.owner = .hold i → s.hold[i] = some e → 15 ≤ e.defers + 1 → u.jitter = s.jitter))
    ∧ (∀ (t : Time) (level : Int) (s : State),
      level ≤ 1000 * (s.cfg.busyLevel : Int) ∨ (∀ a, s.tx = some a → a.phase ≠ .assessing) →
      exec (.busyLevelRise t level) s = .next { s with now := max s.now t })

/-- The field `x` stands in `bits` from `offset` on, most-significant bit first (R1). -/
def Sys2Proof.Claim.Field {w : Nat} (bits : List Bool) (offset : Nat) (x : BitVec w) : Prop :=
  ∀ k, k < w → bits[offset + k]? = some (x.getMsbD k)

/-- CCA_MS clear: SETTLING for 1 ms, receiver OFF, and a hold entry SENDING with its transmit rank fixed; then PREAMBLE
with the power code on the drive outputs; then BODY, with the owner's record as it stands. The four headers have the
fields of R3 to R5 at their offsets; a frame's bytes are header, payload and check, each most-significant bit first; the
check register starts at all ones and takes each bit through x^16 + x^12 + x^5 + 1. -/
def Obligations.ClearChannelsCarryTheFrame : Prop :=
  (∀ (t : Time) (s : State) (a : Attempt), s.tx = some a → a.ends ≤ max s.now t →
    (a.phase = .assessing → (∀ i, a.owner ≠ .hold i) →
      exec (.ccaClear t) s = .next { s with
        now := max s.now t, rx := .off, tx := some { a with phase := .settling, ends := max s.now t + 96 } })
    ∧ (a.phase = .assessing → ∀ i e, a.owner = .hold i → s.hold[i] = some e →
      ∃ u, exec (.ccaClear t) s = .next u
        ∧ u = { s with
            now := max s.now t, rx := .off, tx := some { a with phase := .settling, ends := max s.now t + 96 },
            hold := u.hold }
        ∧ (∀ j : Fin 16, j ≠ i → u.hold[j] = s.hold[j])
        ∧ u.hold[i] = some { e with
            state := .sending
            attempts := e.attempts + 1
            transmitRank := match e.goal with
              | .upward g => some s.ranks[g]
              | .spread _ => e.transmitRank })
    ∧ (a.phase = .settling → exec (.settlingEnd t) s = .next { s with
        now := max s.now t, drive := BitVec.ofNat 8 s.power
        rftx := List.replicate (s.cfg.preambleUnits - 1) 0xAA ++ [startMarkOf a.rate]
        tx := some { a with
          phase := .preamble, ends := max s.now t + s.cfg.preambleUnits * 8 * bitTime a.rate } })
    ∧ (a.phase = .preamble → ∃ u, exec (.preambleSent t) s = .next u
        ∧ u = { s with now := max s.now t, rftx := u.rftx, tx := u.tx }
        ∧ u.tx = some { a with phase := .body, ends := max s.now t + u.rftx.length * 8 * bitTime a.rate }
        ∧ (a.owner = .beacon → u.rftx = frameBytes (beaconBits ⟨s.beaconSerial, BitVec.ofNat 6 s.cfg.beaconPeriod,
            s.own, s.ranks[0], s.ranks[1], s.ranks[2], s.ranks[3]⟩) [] ∧ u.rftx.length = 12)
        ∧ (∀ k rest, a.owner = .hush → s.hushQueue = k :: rest → u.rftx = frameBytes (hushBits
            ⟨BitVec.ofNat 2 s.cfg.anchorIndex.1, k.origin, k.serial, s.own⟩) [] ∧ u.rftx.length = 8)
        ∧ (a.owner = .survey → u.rftx = frameBytes (surveyBits ⟨s.own, BitVec.ofNat 14 s.burstRec.next,
            BitVec.ofNat 6 s.burstRec.fill, 0⟩) (List.replicate s.burstRec.fill 0)
            ∧ u.rftx.length = 7 + s.burstRec.fill)
        ∧ ∀ i e, a.owner = .hold i → s.hold[i] = some e → u.rftx = frameBytes (carryBits
            ⟨e.goal.discipline, e.goal.target, e.hops, e.ident.origin, e.ident.serial, s.own,
              e.transmitRank.getD 4095, e.dest, BitVec.ofNat 7 e.length, 0⟩) (chainBytes s.mem e.chain e.length)
            ∧ u.rftx.length = 14 + e.length))
    ∧ (∀ h : BeaconHeader, let b := beaconBits h
      b.length = 80 ∧ Claim.Field b 0 0#2 ∧ Claim.Field b 2 h.serial ∧ Claim.Field b 10 h.period
        ∧ Claim.Field b 16 h.sender ∧ Claim.Field b 32 h.rank0 ∧ Claim.Field b 44 h.rank1 ∧ Claim.Field b 56 h.rank2
        ∧ Claim.Field b 68 h.rank3)
    ∧ (∀ h : CarryHeader, let b := carryBits h
      b.length = 96 ∧ Claim.Field b 0 1#2
        ∧ Claim.Field b 2 (match h.discipline with | .upward => 0#1 | .spread => 1#1) ∧ Claim.Field b 3 h.target
        ∧ Claim.Field b 11 h.hops ∧ Claim.Field b 16 h.origin ∧ Claim.Field b 32 h.serial ∧ Claim.Field b 44 h.sender
        ∧ Claim.Field b 60 h.senderRank ∧ Claim.Field b 72 h.dest ∧ Claim.Field b 88 h.length ∧ Claim.Field b 95 h.pad)
    ∧ (∀ h : HushHeader, let b := hushBits h
      b.length = 48 ∧ Claim.Field b 0 2#2 ∧ Claim.Field b 2 h.anchor ∧ Claim.Field b 4 h.origin
        ∧ Claim.Field b 20 h.serial ∧ Claim.Field b 32 h.sender)
    ∧ (∀ h : SurveyHeader, let b := surveyBits h
      b.length = 40 ∧ Claim.Field b 0 3#2 ∧ Claim.Field b 2 h.sender ∧ Claim.Field b 18 h.sequence
        ∧ Claim.Field b 32 h.fill ∧ Claim.Field b 38 h.pad)
    ∧ (∀ p : List Byte, (payloadBits p).length = 8 * p.length
      ∧ ∀ (j : Nat) (x : Byte), p[j]? = some x → Claim.Field (payloadBits p) (8 * j) x)
    ∧ (∀ (header : List Bool) (p : List Byte), header.length % 8 = 0 →
      let bits := header ++ payloadBits p
      (frameBytes header p).length = header.length / 8 + p.length + 2
        ∧ (∀ k, k < bits.length → bits[k]? = some (((frameBytes header p).getD (k / 8) 0).getMsbD (k % 8)))
        ∧ (frameBytes header p).drop (header.length / 8 + p.length)
            = [(frameCheck bits).extractLsb' 8 8, (frameCheck bits).setWidth 8])
    ∧ frameCheck [] = 0xFFFF
    ∧ ∀ (bits : List Bool) (x : Bool) (k : Nat), k < 16 →
      let c := frameCheck bits
      let back := c.getLsbD 15 ^^ x
      (frameCheck (bits ++ [x])).getLsbD k =
        if k = 0 then back else if k = 5 ∨ k = 12 then (c.getLsbD (k - 1) ^^ back) else c.getLsbD (k - 1)

/-- BODY_END: the receiver SEARCHING, the stretch timer restarted, and "sent" to the owner. A beacon advances its serial,
is scheduled a period and a draw ahead, and while RUNNING takes the density step. -/
def Obligations.SentBeaconsAreScheduledAgain : Prop :=
  ∀ (t : Time) (s : State) (a : Attempt), s.tx = some a → a.phase = .body → a.ends ≤ max s.now t →
    a.owner = .beacon →
    ∃ u, exec (.bodyEnd t) s = .next u ∧ u.rx = .searching ∧ u.stretch = some (max s.now t / 96 + s.cfg.stretch)
      ∧ u.beaconSerial = s.beaconSerial + 1
      ∧ u.beacon = .waiting (max s.now t / 96 + (s.cfg.beaconPeriod * 1000 + (jitterStep s.jitter).toNat % 256))
      ∧ u.power = (if s.station = .running ∧ s.cfg.denseAbove < s.upCount then
            max s.cfg.powerFloor (s.power - s.cfg.powerStep)
          else if s.station = .running ∧ s.upCount < s.cfg.sparseBelow then
            min s.cfg.powerCeiling (s.power + s.cfg.powerStep)
          else s.power)
      ∧ (s.nextRequest = none ∨ s.station ≠ .running → u = { s with
          now := max s.now t, rx := .searching, tx := none, rftx := [], stretch := u.stretch, jitter := jitterStep s.jitter,
          beacon := u.beacon, beaconSerial := u.beaconSerial, power := u.power, statuses := u.statuses })

/-- What "sent" does to its owner, whether or not another request stands: for a HUSH it removes the head; for a hold entry while RUNNING it ends a SPREAD entry as relayed and sets an
UPWARD one waiting for its echo; while SILENT it drops either. "sent" for a survey frame counts it: the last of the
burst stops it and reports SURVEY_DONE, any other waits out the interval; in ENDING it is counted in no burst. Whoever's
frame was sent, the transmitter of a RUNNING station is granted at once in the order of R15, the next HUSH included, and
that of a SILENT one stays IDLE. -/
def Obligations.SentHushHoldAndSurvey : Prop :=
  (∀ (t : Time) (s : State) (a : Attempt), s.tx = some a → a.phase = .body → a.ends ≤ max s.now t → SeenLaw s →
      ∃ u, exec (.bodyEnd t) s = .next u ∧ u.rx = .searching ∧ u.stretch = some (max s.now t / 96 + s.cfg.stretch)
        ∧ (∀ j : Fin 16, a.owner ≠ .hold j → u.hold[j] = s.hold[j]
          ∨ ∃ f, s.hold[j] = some f ∧ f.state = .ready
            ∧ u.hold[j] = some { f with state := .assessing } ∧ Claim.GrantedTo (.hold j) u.rate s u)
        ∧ (a.owner = .hush → u.hushQueue = s.hushQueue.drop 1)
        ∧ ∀ i e, a.owner = .hold i → s.hold[i] = some e → e.state = .sending →
          (s.station = .running → e.goal.discipline = .spread → Claim.Gone s u i e .relayed (some .sent)
            ∧ u.stats.relayed = min 65535 (s.stats.relayed + 1))
          ∧ (s.station = .running → e.goal.discipline = .upward → u.hold[i] = some { e with
              state := .awaitingEcho
              deadline := max s.now t / 96 + (s.cfg.holdMin + s.cfg.holdSpan + s.cfg.jitter + 32) }
            ∧ u.free = s.free ∧ u.seen = s.seen)
          ∧ (s.station = .silent → Claim.Gone s u i e .dropped (some (.dropped .silenced))
            ∧ u.stats.droppedOther = min 65535 (s.stats.droppedOther + 1)))
    ∧ (∀ (t : Time) (s : State) (a : Attempt), s.tx = some a → a.phase = .body → a.ends ≤ max s.now t →
      a.owner = .survey →
      ∃ u, exec (.bodyEnd t) s = .next u ∧ u.rx = .searching ∧ (s.nextRequest = none → u.tx = none)
        ∧ u.stretch = some (max s.now t / 96 + s.cfg.stretch)
        ∧ (s.burst = .inAttempt → u.burstRec = { s.burstRec with sent := s.burstRec.sent + 1, next := s.burstRec.next + 1 }
          ∧ (s.burstRec.sent + 1 = s.burstRec.count → u.burst = .stopped ∧ u.statuses.getLsbD 9 = s.masks.getLsbD 9)
          ∧ (s.burstRec.sent + 1 ≠ s.burstRec.count → u.burst = .waiting (max s.now t / 96 + s.burstRec.interval)))
        ∧ (s.burst = .ending → u.burst = .stopped ∧ u.burstRec = s.burstRec
          ∧ u.statuses.getLsbD 9 = (s.masks.getLsbD 9 && s.statuses.getLsbD 9)))
    ∧ (∀ (t : Time) (s : State) (a : Attempt), s.tx = some a → a.phase = .body → a.ends ≤ max s.now t → OwnerLaw s →
      ∃ u, exec (.bodyEnd t) s = .next u
        ∧ (s.station = .running → Claim.GrantedInOrder
            (if a.owner = .hush then { s with hushQueue := s.hushQueue.drop 1, hushHead := .standing } else s) u)
        ∧ (s.station ≠ .running → u.tx = none))

/-! ### Timers -/

/-- A beacon that falls due, comes back from its backoff or replaces an unsent one keeps its serial, has its
replacement deadline, and requests: granted at once by a free transmitter, granted and deferred at once where the receiver
has a frame, else DUE. A replacement in attempt changes the deadline alone. A replacement deadline that expires in attempt is set a period ahead, and the attempt goes on. -/
def Obligations.DueBeaconsRequest : Prop :=
  (∀ (t : Time) (s : State) (c : Instr) (r : Millis), Claim.Quiet s →
      (let m := max s.now t / 96
       (∃ d, c = .beaconDueExpiry t ∧ s.beacon = .waiting d ∧ d ≤ m ∧ r = m + s.cfg.beaconPeriod * 1000)
       ∨ (∃ d, c = .beaconBackoffExpiry t ∧ s.beacon = .backoff d r ∧ d ≤ m)
       ∨ (∃ q d, c = .beaconReplacementExpiry t ∧ (s.beacon = .due q ∨ s.beacon = .backoff d q) ∧ q ≤ m
          ∧ r = m + s.cfg.beaconPeriod * 1000)) →
      ∃ u, exec c s = .next u ∧ u.beaconSerial = s.beaconSerial
        ∧ (Claim.FreeToGrant s → s.settle = s → u.beacon = .inAttempt r ∧ Claim.GrantedTo .beacon .slow s u
            ∧ u = { s with now := max s.now t, beacon := u.beacon, tx := u.tx })
        ∧ (s.station = .running → s.tx = none → Claim.Engaged s → s.settle = s → u = { s with
            now := max s.now t, jitter := jitterStep s.jitter,
            beacon := .backoff (Claim.backoff s (max s.now t / 96)) r })
        ∧ (s.station ≠ .running ∨ s.tx.isSome → s.settle = s → u = { s with now := max s.now t, beacon := .due r }))
    ∧ (∀ (t : Time) (s : State) (r : Millis), s.beacon = .inAttempt r → r ≤ max s.now t / 96 →
      exec (.beaconReplacementExpiry t) s = .next { s with
        now := max s.now t, beacon := .inAttempt (max s.now t / 96 + s.cfg.beaconPeriod * 1000) })

/-- The deadline of an entry in HOLDING: an UPWARD relay whose own rank is not below Rs is dropped, an own UPWARD message
without a route is dropped with NO_ROUTE, an UPWARD entry with a best rank heard at most the own rank is suppressed; any
other is READY, granted at once by a free transmitter, and granted and deferred at once where the receiver has a frame:
the fifteenth deferral drops it. -/
def Obligations.HoldExpiryRechecksTheEntry : Prop :=
  ∀ (t : Time) (i : Fin 16) (s : State) (e : Hold), s.hold[i] = some e → e.state = .holding →
    e.deadline ≤ max s.now t / 96 → Claim.Quiet s → SeenLaw s → SlotLaw s →
    let stale := ∃ g rs, e.goal = .upward g ∧ e.senderRank = some rs ∧ rs ≤ s.ranks[g]
    let lost := ∃ g, e.goal = .upward g ∧ e.senderRank = none ∧ s.ranks[g] = 4095
    let passed := ∃ g x b, e.goal = .upward g ∧ s.findSeen e.ident = some x ∧ x.bestRank = some b ∧ b ≤ s.ranks[g]
    ∃ u, exec (.holdDeadlineExpiry t i) s = .next u
      ∧ (stale → Claim.Removed s u i e .dropped none
          ∧ u.stats.droppedOther = min 65535 (s.stats.droppedOther + 1))
      ∧ (lost → Claim.Removed s u i e .dropped (some (.dropped .noRoute))
          ∧ u.stats.droppedOther = min 65535 (s.stats.droppedOther + 1))
      ∧ (¬stale → ¬lost → passed → Claim.Removed s u i e .suppressed (some .echoed)
          ∧ u.stats.suppressed = min 65535 (s.stats.suppressed + 1))
      ∧ (¬stale → ¬lost → ¬passed →
          (Claim.FreeToGrant s → u.hold[i] = some { e with state := .assessing }
            ∧ Claim.GrantedTo (.hold i) s.rate s u)
          ∧ (s.station = .running → s.tx = none → Claim.Engaged s → u.tx = none
            ∧ (e.defers + 1 < 15 → u.jitter = jitterStep s.jitter ∧ u.hold[i] = some { e with
                state := .holding, deadline := Claim.backoff s (max s.now t / 96), defers := e.defers + 1 })
            ∧ (15 ≤ e.defers + 1 → u.jitter = s.jitter
                ∧ Claim.Removed s u i e .dropped (some (.dropped .channelBusy))
                ∧ u.stats.droppedOther = min 65535 (s.stats.droppedOther + 1)))
          ∧ (s.station ≠ .running ∨ s.tx.isSome → u.hold[i] = some { e with state := .ready } ∧ u.tx = s.tx)
          ∧ ∀ j : Fin 16, j ≠ i → u.hold[j] = s.hold[j])

/-- An echo deadline reports unechoed, then returns the entry to HOLDING with the retry hold-off while attempts remain,
and abandons it otherwise. -/
def Obligations.EchoExpiryRetriesOrAbandons : Prop :=
  ∀ (t : Time) (i : Fin 16) (s : State) (e : Hold), s.hold[i] = some e → e.state = .awaitingEcho →
    e.deadline ≤ max s.now t / 96 → SeenLaw s →
    ∃ u, exec (.echoDeadlineExpiry t i) s = .next u ∧ u.echoed = 0
      ∧ (s.unechoed + 1 < s.cfg.downshiftAfter → u.unechoed = s.unechoed + 1 ∧ u.rate = s.rate)
      ∧ (s.cfg.downshiftAfter ≤ s.unechoed + 1 → u.unechoed = 0 ∧ rateCode u.rate = rateCode s.rate - 1
          ∧ (s.rate ≠ .slow → u.statuses.getLsbD 8 = s.masks.getLsbD 8))
      ∧ (e.attempts < s.cfg.retryLimit + 1 → u.jitter = jitterStep s.jitter ∧ u.free = s.free ∧ u.seen = s.seen
          ∧ (∀ j : Fin 16, j ≠ i → u.hold[j] = s.hold[j])
          ∧ u.hold[i] = some { e with
              state := .holding
              deadline := max s.now t / 96 + (s.cfg.holdMin + (jitterStep s.jitter).toNat % (s.cfg.jitter + 1)
                + 2 * (s.holdCount - 1)) })
      ∧ (s.cfg.retryLimit + 1 ≤ e.attempts → Claim.Removed s u i e .abandoned (some .abandoned)
          ∧ u.jitter = s.jitter ∧ u.stats.abandoned = min 65535 (s.stats.abandoned + 1))

/-- A HUSH head back from its backoff stands again, and a survey frame whose interval or backoff has run is due with the
same sequence: each is granted at once by a free transmitter, and granted and deferred at once where the receiver has a
frame. -/
def Obligations.HushAndSurveyRequestAgain : Prop :=
  ∀ (t : Time) (s : State) (d : Millis), d ≤ max s.now t / 96 → Claim.Quiet s → s.settle = s →
    (s.hushHead = .backoff d → s.hushQueue ≠ [] →
      ∃ u, exec (.hushBackoffExpiry t) s = .next u ∧ u.hushQueue = s.hushQueue
        ∧ (Claim.FreeToGrant s → u.hushHead = .inAttempt ∧ Claim.GrantedTo .hush .slow s u
          ∧ u = { s with now := max s.now t, hushHead := u.hushHead, tx := u.tx })
        ∧ (s.station = .running → s.tx = none → Claim.Engaged s → u = { s with
            now := max s.now t, jitter := jitterStep s.jitter,
            hushHead := .backoff (Claim.backoff s (max s.now t / 96)) })
        ∧ (s.station ≠ .running ∨ s.tx.isSome → u = { s with now := max s.now t, hushHead := .standing }))
    ∧ ∀ c, (c = .surveyIntervalExpiry t ∧ s.burst = .waiting d ∨ c = .surveyBackoffExpiry t ∧ s.burst = .backoff d) →
      ∃ u, exec c s = .next u ∧ u.burstRec = s.burstRec
        ∧ (Claim.FreeToGrant s → u.burst = .inAttempt ∧ Claim.GrantedTo .survey s.burstRec.rate s u
          ∧ u = { s with now := max s.now t, burst := u.burst, tx := u.tx })
        ∧ (s.station = .running → s.tx = none → Claim.Engaged s → u = { s with
            now := max s.now t, jitter := jitterStep s.jitter,
            burst := .backoff (Claim.backoff s (max s.now t / 96)) })
        ∧ (s.station ≠ .running ∨ s.tx.isSome → u = { s with now := max s.now t, burst := .due })

/-- The stretch timer stops at its deadline; the indicator toggles and counts the next 250 ms, reckoned from the moment at
which the expiry is taken (deduced, log 21). IND is off in LOADING, follows the alternation in AWAITING_CONFIG, and in
RUNNING and SILENT follows the indicator mode: OFF never; REACH while the rank toward anchor 0 is below 4095; ACTIVITY while
the stretch timer runs; COMBINED while that rank is below 4095 and the stretch timer does not run. -/
def Obligations.IndicatorTimersRun : Prop :=
  (∀ (t : Time) (s : State),
    (∀ d, s.stretch = some d → d ≤ max s.now t / 96 →
      exec (.stretchExpiry t) s = .next { s with now := max s.now t, stretch := none })
    ∧ ∀ a, s.alternation = some a → a.deadline ≤ max s.now t / 96 →
      exec (.indicatorAlternation t) s = .next { s with
        now := max s.now t, alternation := some ⟨!a.on, max s.now t / 96 + 250⟩ })
    ∧ ∀ s : State,
      (s.station = .loading → s.ind = false)
      ∧ (s.station = .awaitingConfig → (s.ind = true ↔ ∃ a, s.alternation = some a ∧ a.on = true))
      ∧ (s.station = .running ∨ s.station = .silent →
        (s.cfg.indicatorMode = .off → s.ind = false)
        ∧ (s.cfg.indicatorMode = .reach → (s.ind = true ↔ s.ranks[0] ≠ 4095))
        ∧ (s.cfg.indicatorMode = .activity → (s.ind = true ↔ ∃ d, s.stretch = some d))
        ∧ (s.cfg.indicatorMode = .combined → (s.ind = true ↔ s.ranks[0] ≠ 4095 ∧ s.stretch = none)))

/-- A timer that does not run, or whose deadline has not come, does not expire, and a transmit phase does not end before
its time: nothing but the time changes, which is the model's choice for an event that cannot occur (log 2), as is that
an expiry may be taken late (log 3). -/
def Obligations.NoTimerExpiresEarly : Prop :=
  ∀ (t : Time) (s : State), let m := max s.now t / 96
    (∀ i : Fin 32, (∀ n, s.table[i] = some n → m < n.due) →
      exec (.neighbourDueExpiry t i) s = .next { s with now := max s.now t })
    ∧ (∀ i : Fin 16, (∀ e, s.hold[i] = some e → e.state = .holding → m < e.deadline) →
      exec (.holdDeadlineExpiry t i) s = .next { s with now := max s.now t })
    ∧ (∀ i : Fin 16, (∀ e, s.hold[i] = some e → e.state = .awaitingEcho → m < e.deadline) →
      exec (.echoDeadlineExpiry t i) s = .next { s with now := max s.now t })
    ∧ ((∀ d, s.beacon = .waiting d → m < d) → exec (.beaconDueExpiry t) s = .next { s with now := max s.now t })
    ∧ ((∀ d r, s.beacon = .backoff d r → m < d) →
      exec (.beaconBackoffExpiry t) s = .next { s with now := max s.now t })
    ∧ ((∀ d, s.hushHead = .backoff d → m < d) → exec (.hushBackoffExpiry t) s = .next { s with now := max s.now t })
    ∧ ((∀ d, s.burst = .waiting d → m < d) → exec (.surveyIntervalExpiry t) s = .next { s with now := max s.now t })
    ∧ ((∀ d, s.burst = .backoff d → m < d) → exec (.surveyBackoffExpiry t) s = .next { s with now := max s.now t })
    ∧ ((∀ d, s.stretch = some d → m < d) → exec (.stretchExpiry t) s = .next { s with now := max s.now t })
    ∧ ((∀ r, s.beacon = .due r ∨ (∃ d, s.beacon = .backoff d r) ∨ s.beacon = .inAttempt r → m < r) →
      exec (.beaconReplacementExpiry t) s = .next { s with now := max s.now t })
    ∧ ((∀ a, s.alternation = some a → m < a.deadline) →
      exec (.indicatorAlternation t) s = .next { s with now := max s.now t })
    ∧ ((∀ since, s.loader = .polling since → m < since + 25) →
      exec (.configLoadTimeout t) s = .next { s with now := max s.now t })
    ∧ ∀ c p, (c = .ccaClear t ∧ p = .assessing ∨ c = .settlingEnd t ∧ p = .settling
          ∨ c = .preambleSent t ∧ p = .preamble ∨ c = .bodyEnd t ∧ p = .body) →
      (∀ a, s.tx = some a → a.phase = p → max s.now t < a.ends) → exec c s = .next { s with now := max s.now t }

/-! ### The lamp port -/

/-- What LDI carried at the rising edges of LCLK, first bit first (R161). -/
def Sys2Proof.Claim.risen (edges : List LampEdge) : List Bool :=
  edges.filterMap fun e => match e with
    | .rise ldi => some ldi
    | .fall => none

/-- A command that R163's table does not let be taken receives the table's result and has no effect. A byte that is no
command byte is answered BAD_COMMAND in every station state; a transaction discarded before its command is taken
changes nothing. That commands are answered as in LOADING while RSTN is low is the model's choice (log 9). A command's bytes
in R162's layout are taken as that command when the last of them is in, not before, and later bytes are ignored. LDI
is sampled on the rising edges of LCLK and LDO changes on the falling ones. LDO is tristate while LSEL is high; while it is
low it sends 00 hex until the command is taken, then the answer, then 00 hex, most-significant bit first. -/
def Obligations.StationStateJudgesCommands : Prop :=
  (∀ (c : Instr) (s : State) (code : Byte), Claim.lampAnswer c s.station = some code →
      exec c s = .next (Claim.answered s c.time [code]))
    ∧ (∀ (t : Time) (code : Byte) (s : State),
      (code ∉ ([0x01, 0x02, 0x10, 0x11, 0x20, 0x21, 0x30, 0x31, 0x32, 0x40, 0x41, 0x50, 0x51, 0x60, 0x61, 0x62, 0x7E] : List Byte) →
        exec (.badCommand t code) s = .next (Claim.answered s t [0x03]))
      ∧ exec (.lselRiseAbort t) s = .next { s with now := max s.now t })
    ∧ (∀ (c : Instr) (bytes : List Byte), c.wellFormed = true → Claim.clockedIn c = some bytes →
      (∀ more, decodeTransaction c.time (bytes ++ more) = some c)
      ∧ (∀ k, k < bytes.length → ∀ ended,
          decodeTransaction c.time (bytes.take k) = none
          ∧ transactionCommands c.time ended (bytes.take k) = [.lselRiseAbort ended])
      ∧ ∀ (s : State) (edges : List LampEdge) (more : List Byte),
        let ldi := Claim.risen edges
        (bytesOfBits ldi = bytes ++ more →
          s.ldo false (edges ++ [.fall]) = some ((s.response.getD more.length 0x00).getMsbD (ldi.length % 8)))
        ∧ ∀ k, k < bytes.length → bytesOfBits ldi = bytes.take k → s.ldo false (edges ++ [.fall]) = some false)
    ∧ ∀ (s : State) (edges : List LampEdge),
      s.ldo true edges = none ∧ s.ldo false [] = some false
        ∧ (∀ ldi, s.ldo false (edges ++ [.rise ldi]) = s.ldo false edges)
        ∧ ∀ taken ended, s.transact taken ended edges = { s with
            pending := s.pending ++ transactionCommands taken ended (bytesOfBits (Claim.risen edges)) }

/-- STATUS answers in every station state with the state, the ranks, the hold, free and ring counts, the rate level and
the power code, and changes nothing; before RUNNING it reports the reset values. That it is answered while RSTN is low is
the model's choice (log 9). -/
def Obligations.StatusReports : Prop :=
  ∀ (t : Time) (s : State),
    (exec (.status t) s = .next (Claim.answered s t
      ([0x00, BitVec.ofNat 8 (match s.station with | .loading => 0 | .awaitingConfig => 1 | .running => 2 | .silent => 3),
        (s.ranks[0].setWidth 16).extractLsb' 8 8, s.ranks[0].setWidth 8,
        (s.ranks[1].setWidth 16).extractLsb' 8 8, s.ranks[1].setWidth 8,
        (s.ranks[2].setWidth 16).extractLsb' 8 8, s.ranks[2].setWidth 8,
        (s.ranks[3].setWidth 16).extractLsb' 8 8, s.ranks[3].setWidth 8,
        BitVec.ofNat 8 s.holdCount, BitVec.ofNat 8 s.free.length, BitVec.ofNat 8 s.ring.length,
        BitVec.ofNat 8 (match s.rate with | .slow => 0 | .mid => 1 | .fast => 2), BitVec.ofNat 8 s.power])))
    ∧ (StartLaw s → s.station = .loading ∨ s.station = .awaitingConfig →
      ∃ b, exec (.status t) s = .next (Claim.answered s t
        [0x00, b, 0x0F, 0xFF, 0x0F, 0xFF, 0x0F, 0xFF, 0x0F, 0xFF, 0, 96, 0, 1, 255]))

/-- READ_TABLE reports the slot at the table cursor, ABSENT and zeros where it is empty, and advances the cursor, from
31 to 0; nothing else changes. READ_STATS answers OK with 19 bytes, frames_good in four decimal digits first and the
other counters in the order of R179's table, and with its clear flag sets every counter to 0 after they are taken. -/
def Obligations.ReadTableAndStatsReport : Prop :=
  (∀ (t : Time) (s : State), s.station = .running ∨ s.station = .silent →
      (s.table[s.tableCursor] = none → exec (.readTable t) s = .next
        { Claim.answered s t (0x00 :: BitVec.ofNat 8 s.tableCursor.1 :: List.replicate 24 0) with
          tableCursor := s.tableCursor + 1 })
      ∧ ∀ n, s.table[s.tableCursor] = some n → ∃ marks : BitVec 16,
        (∀ k, k < 16 → marks.getMsbD k = decide (n.history[k]? = some .heard))
        ∧ exec (.readTable t) s = .next
          { Claim.answered s t ([0x00, BitVec.ofNat 8 s.tableCursor.1,
              (match n.standing with | .candidate => 1 | .up => 2 | .silent => 3),
              n.address.extractLsb' 8 8, n.address.setWidth 8, BitVec.ofNat 8 n.history.length,
              marks.extractLsb' 8 8, marks.setWidth 8, BitVec.ofNat 8 (linkQuality n.history),
              BitVec.ofNat 8 n.heardStreak, BitVec.ofNat 8 n.missStreak, BitVec.ofNat 8 n.missesNoted,
              BitVec.ofNat 8 n.marginAvg,
              (n.ranks[0].setWidth 16).extractLsb' 8 8, n.ranks[0].setWidth 8,
              (n.ranks[1].setWidth 16).extractLsb' 8 8, n.ranks[1].setWidth 8,
              (n.ranks[2].setWidth 16).extractLsb' 8 8, n.ranks[2].setWidth 8,
              (n.ranks[3].setWidth 16).extractLsb' 8 8, n.ranks[3].setWidth 8,
              BitVec.ofNat 8 n.period, n.serial,
              BitVec.ofNat 8 ((n.due - max s.now t / 96) / 65536), BitVec.ofNat 8 ((n.due - max s.now t / 96) / 256),
              BitVec.ofNat 8 (n.due - max s.now t / 96)]) with
            tableCursor := s.tableCursor + 1 })
    ∧ ∀ (t : Time) (clear : Byte) (s : State), s.station = .running ∨ s.station = .silent →
      exec (.readStats t clear) s = .next
        { Claim.answered s t
            [0x00, BitVec.ofNat 8 (s.stats.framesGood / 1000 % 10 * 16 + s.stats.framesGood / 100 % 10),
              BitVec.ofNat 8 (s.stats.framesGood / 10 % 10 * 16 + s.stats.framesGood % 10),
              BitVec.ofNat 8 s.stats.framesBad,
              BitVec.ofNat 8 (s.stats.relayed / 256), BitVec.ofNat 8 s.stats.relayed,
              BitVec.ofNat 8 (s.stats.suppressed / 256), BitVec.ofNat 8 s.stats.suppressed,
              BitVec.ofNat 8 (s.stats.hushed / 256), BitVec.ofNat 8 s.stats.hushed,
              BitVec.ofNat 8 (s.stats.abandoned / 256), BitVec.ofNat 8 s.stats.abandoned,
              BitVec.ofNat 8 (s.stats.droppedNoBuffer / 256), BitVec.ofNat 8 s.stats.droppedNoBuffer,
              BitVec.ofNat 8 (s.stats.droppedOther / 256), BitVec.ofNat 8 s.stats.droppedOther,
              BitVec.ofNat 8 s.stats.deliveryOverflow, BitVec.ofNat 8 s.stats.tableRefused,
              BitVec.ofNat 8 s.stats.hushLost, BitVec.ofNat 8 s.stats.ownEchoOrStale] with
          stats := if clear = 0 then s.stats else Stats.zero }

/-- READ_SURVEY answers OK with the tally, zeros where it is empty, and with its clear flag empties the tally after its
fields are taken. -/
def Obligations.ReadSurveyReportsTheTally : Prop :=
  ∀ (t : Time) (clear : Byte) (s : State), s.station = .running ∨ s.station = .silent →
    ∃ bytes, exec (.readSurvey t clear) s = .next
        { Claim.answered s t (0x00 :: bytes) with tally := if clear = 0 then s.tally else none }
      ∧ (s.tally = none → bytes = List.replicate 11 0)
      ∧ ∀ y, s.tally = some y → y.heard ≤ 65535 → y.missing ≤ 65535 → y.marginAvg ≤ 63 → bytes =
        [y.sender.extractLsb' 8 8, y.sender.setWidth 8, BitVec.ofNat 8 (y.heard / 256), BitVec.ofNat 8 y.heard,
          (y.first.setWidth 16).extractLsb' 8 8, y.first.setWidth 8, (y.last.setWidth 16).extractLsb' 8 8, y.last.setWidth 8,
          BitVec.ofNat 8 (y.missing / 256), BitVec.ofNat 8 y.missing, BitVec.ofNat 8 y.marginAvg]

/-- A SUBMIT refused by R153's checks, in their order, is answered with the check's result and takes nothing. -/
def Obligations.RefusedSubmitsTakeNothing : Prop :=
  ∀ (t : Time) (d g : Byte) (dest : Address) (hops : Byte) (p : List Byte) (s : State), s.station = .running →
    let bad := 1 < d.toNat ∨ 112 < p.length ∨ (d = 0 ∧ 3 < g.toNat) ∨ dest = 0
    let home := d = 0 ∧ s.cfg.role = .anchor ∧ g.toNat = s.cfg.anchorIndex.1
    let lost := d = 0 ∧ ∃ a : Fin 4, a.1 = g.toNat ∧ s.ranks[a] = 4095
    let full := (∀ k : Fin 4, s.slots[k] ≠ .free) ∨ ∀ i : Fin 16, s.hold[i].isSome
    let short := s.free.length < (p.length + 15) / 16
    let answer (b : Byte) := exec (.submit t d g dest hops p) s = .next (Claim.answered s t [b])
    (bad → answer 0x04) ∧ (¬bad → home → answer 0x04) ∧ (¬bad → ¬home → lost → answer 0x07)
      ∧ (¬bad → ¬home → ¬lost → full → answer 0x05) ∧ (¬bad → ¬home → ¬lost → ¬full → short → answer 0x06)

/-- A SUBMIT that passes every check takes the lowest FREE slot, a serial not PENDING, one draw for its hold-off (and one
before it to seed the counter), a PENDING seen entry and a hold entry at the lowest free index, and is answered OK with
slot and serial. No byte of a block outside its chain changes. -/
def Obligations.AcceptedSubmitsAreHeld : Prop :=
  ∀ (t : Time) (d g : Byte) (dest : Address) (hops : Byte) (p : List Byte) (s : State) (k : Fin 4) (i : Fin 16),
    s.station = .running → d.toNat ≤ 1 → p.length ≤ 112 → dest ≠ 0 →
    (d = 0 → g.toNat ≤ 3 ∧ ¬(s.cfg.role = .anchor ∧ g.toNat = s.cfg.anchorIndex.1)
      ∧ ∀ a : Fin 4, a.1 = g.toNat → s.ranks[a] ≠ 4095) →
    s.slots[k] = .free → (∀ q : Fin 4, q < k → s.slots[q] ≠ .free) →
    s.hold[i] = none → (∀ j : Fin 16, j < i → s.hold[j].isSome) → (p.length + 15) / 16 ≤ s.free.length →
    SeenLaw s → BlockLaw s → StoreForm s →
    let seeded := if s.serial = none then jitterStep s.jitter else s.jitter
    let first := s.serial.getD ((jitterStep s.jitter).setWidth 12)
    ∃ u v e, exec (.submit t d g dest hops p) s = .next u
      ∧ u.slots = setAt s.slots k (.pending v) ∧ u.hold = setAt s.hold i (some e)
      ∧ u.response = [0x00, BitVec.ofNat 8 k.1, (v.setWidth 16).extractLsb' 8 8, v.setWidth 8]
      ∧ u.serial = some (v + 1) ∧ u.jitter = jitterStep seeded
      ∧ (∀ x ∈ s.seen, x.ident = ⟨s.own, v⟩ → x.status ≠ .pending)
      ∧ ((∀ x ∈ s.seen, x.ident = ⟨s.own, first⟩ → x.status ≠ .pending) → v = first)
      ∧ (∃ x, u.findSeen ⟨s.own, v⟩ = some x ∧ x.status = .pending)
      ∧ chainBytes u.mem e.chain p.length = p ∧ e.chain = s.free.take ((p.length + 15) / 16)
      ∧ Claim.OtherBytesKept s u e.chain
      ∧ u.free = s.free.drop ((p.length + 15) / 16)
      ∧ e = { ident := ⟨s.own, v⟩
              goal := goalOf (if d = 0 then .upward else .spread) g
              dest := dest
              hops := BitVec.ofNat 5 (submitHops s.cfg.maxHops hops)
              senderRank := none
              length := p.length
              chain := e.chain
              state := .holding
              deadline := max s.now t / 96 + (s.cfg.holdMin + (jitterStep seeded).toNat % (s.cfg.jitter + 1)
                + 2 * s.holdCount)
              attempts := 0
              defers := 0
              transmitRank := none
              slot := some k }
      ∧ u = { s with
          now := max s.now t, slots := u.slots, hold := u.hold, response := u.response, serial := u.serial,
          jitter := u.jitter, seen := u.seen, mem := u.mem, free := u.free, statuses := u.statuses, fetching := none }

/-- ORIGIN_STATUS: a slot number above 3 is BAD_ARGUMENT; FREE and PENDING slots are reported and kept; a COMPLETE slot
is reported with serial, outcome, drop reason and attempts, and freed. Bytes to which no rule gives a value are left
open (log 8). -/
def Obligations.OriginStatusFreesCompleteSlots : Prop :=
  ∀ (t : Time) (b : Byte) (s : State), s.station = .running ∨ s.station = .silent →
    (3 < b.toNat → exec (.originStatus t b) s = .next (Claim.answered s t [0x04]))
    ∧ ∀ k : Fin 4, b.toNat = k.1 →
      ∃ u, exec (.originStatus t b) s = .next u ∧ u.fetching = none
        ∧ u = { s with
            now := max s.now t, slots := u.slots, response := u.response, fetching := u.fetching,
            statuses := u.statuses, unstated := u.unstated }
        ∧ (s.slots[k] = .free → u.slots = s.slots ∧ ∃ x y z, u.response = [0x00, 0x00, x, y, 0x00, 0x00, z])
        ∧ (∀ v, s.slots[k] = .pending v → u.slots = s.slots
          ∧ ∃ z, u.response = [0x00, 0x01, (v.setWidth 16).extractLsb' 8 8, v.setWidth 8, 0x00, 0x00, z])
        ∧ ∀ v o n, s.slots[k] = .complete v o n → u.slots = setAt s.slots k .free
          ∧ u.response = [0x00, 0x02, (v.setWidth 16).extractLsb' 8 8, v.setWidth 8,
              (match o with | .echoed => 1 | .sent => 2 | .abandoned => 3 | .dropped _ => 4),
              (match o with
                | .dropped .noRoute => 1 | .dropped .channelBusy => 2 | .dropped .silenced => 3 | _ => 0),
              BitVec.ofNat 8 n]

/-- FETCH answers EMPTY for an empty ring; else it reports the head's fields and n payload bytes from the cursor, n
clamped to 1..64, and moves the cursor to (c0 + n) mod L, the ring unchanged. A transaction ended after fewer bytes
leaves the cursor advanced by those alone; that FETCH moves the cursor at once and the early end puts it back is the
model's choice (log 7). RELEASE answers EMPTY for an empty ring; else it removes the head, frees
its chain to the tail of the free list and returns the cursor to 0. -/
def Obligations.FetchAndRelease : Prop :=
  (∀ (t : Time) (n : Byte) (s : State), s.station = .running ∨ s.station = .silent →
      (s.ring = [] → exec (.fetch t n) s = .next (Claim.answered s t [0x08]))
      ∧ ∀ d rest, s.ring = d :: rest →
        let m := max 1 (min 64 n.toNat)
        ∃ u payload, exec (.fetch t n) s = .next u
          ∧ u.response = 0x00 :: (d.ident.origin.extractLsb' 8 8 :: d.ident.origin.setWidth 8
              :: (d.ident.serial.setWidth 16).extractLsb' 8 8 :: d.ident.serial.setWidth 8
              :: (match d.goal.discipline with | .upward => 0 | .spread => 1) :: d.goal.target
              :: d.sender.extractLsb' 8 8 :: d.sender.setWidth 8 :: d.hops.setWidth 8 :: BitVec.ofNat 8 d.length
              :: payload)
          ∧ payload.length = m
          ∧ (∀ j, j < m → payload[j]? = some (if d.length = 0 then 0
              else chainByte s.mem d.chain ((s.cursor + j) % d.length)))
          ∧ u.cursor = (if d.length = 0 then 0 else (s.cursor + m) % d.length)
          ∧ u = { s with now := max s.now t, cursor := u.cursor, response := u.response, fetching := u.fetching }
          ∧ ∀ (t' : Time) (supplied : Nat), supplied < m →
            ∃ w, exec (.transactionEndedEarly t' supplied) u = .next w
              ∧ w.cursor = (if d.length = 0 then 0 else (s.cursor + supplied) % d.length)
              ∧ w = { u with now := max u.now t', cursor := w.cursor, response := w.response, fetching := none })
    ∧ (∀ (t : Time) (s : State), s.station = .running ∨ s.station = .silent →
      (s.ring = [] → exec (.release t) s = .next (Claim.answered s t [0x08]))
      ∧ ∀ d rest, s.ring = d :: rest → ∃ u, exec (.release t) s = .next u
        ∧ u = { Claim.answered s t [0x00] with
            ring := rest, free := s.free ++ d.chain, cursor := 0, statuses := u.statuses })

/-- READ_EVENTS reports every status, CLEAR_EVENTS none; each clears the selected transition and latched statuses, sets a
latched level again whose condition holds, and leaves an unlatched level on its condition. -/
def Obligations.ReadingAndClearingEvents : Prop :=
  ∀ (t : Time) (w : BitVec 16) (s : State), s.station = .running ∨ s.station = .silent → s.settle = s →
    let after (selection : BitVec 12) : BitVec 12 :=
      (s.statuses &&& ~~~selection) ||| (s.masks &&& levelWord s.modes &&& s.conditionWord)
    exec (.readEvents t) s = .next { Claim.answered s t
        [0x00, (s.statuses.setWidth 16).extractLsb' 8 8, s.statuses.setWidth 8] with statuses := after 0xFFF }
    ∧ exec (.clearEvents t w) s = .next { Claim.answered s t [0x00] with statuses := after (w.setWidth 12) }

/-- SET_EVENTS writes masks, trigger modes and latch flags at once. Of the statuses, a masked source's is 0, a REACH
source's whose mode changed is lost, an unlatched level source's is its condition, a latched one's is kept or set by its
condition, and any other transition status is kept. -/
def Obligations.SetEventsDecidesEveryStatus : Prop :=
  ∀ (t : Time) (w l : BitVec 16) (modes : Byte) (s : State), s.station = .running ∨ s.station = .silent →
    ∃ u, exec (.setEvents t w modes l) s = .next u
      ∧ u = { Claim.answered s t [0x00] with
          masks := w.setWidth 12, modes := modes, latches := l.setWidth 12, statuses := u.statuses }
      ∧ ∀ b, b < 12 →
        let changed := ∃ a : Fin 4, b = 3 + a.1 ∧ triggerMode s.modes a ≠ triggerMode modes a
        let level := (levelWord modes).getLsbD b
        let condition := s.conditionWord.getLsbD b
        (w.getLsbD b = false → u.statuses.getLsbD b = false)
        ∧ (w.getLsbD b = true → level = true → l.getLsbD b = false → u.statuses.getLsbD b = condition)
        ∧ (w.getLsbD b = true → level = true → l.getLsbD b = true → ¬changed →
            u.statuses.getLsbD b = (s.statuses.getLsbD b || condition))
        ∧ (w.getLsbD b = true → changed → u.statuses.getLsbD b = (level && condition))
        ∧ (w.getLsbD b = true → level = false → ¬changed → u.statuses.getLsbD b = s.statuses.getLsbD b)

/-- SILENCE moves RUNNING to SILENT: an attempt in ASSESSING is cancelled with no draw, every hold entry not being sent is
dropped, its chain freed and its slot completed, a burst ends; a beacon or HUSH so cancelled stays due or STANDING; a
frame past ASSESSING goes on. -/
def Obligations.SilenceDropsWhatIsNotBeingSent : Prop :=
  ∀ (t : Time) (s : State), s.station = .running → SeenLaw s → SlotLaw s → OwnerLaw s →
    ∃ u, exec (.silence t) s = .next u ∧ u.station = .silent ∧ u.response = [0x00] ∧ u.jitter = s.jitter
      ∧ u.ring = s.ring ∧ u.table = s.table ∧ u.ranks = s.ranks ∧ u.hushQueue = s.hushQueue ∧ u.power = s.power
      ∧ u.rate = s.rate ∧ u.echoed = s.echoed ∧ u.unechoed = s.unechoed
      ∧ (∀ i : Fin 16, u.hold[i] = (s.hold[i].filter fun e => e.state = .sending))
      ∧ u.free = s.free ++ (s.holds.filter fun e => e.state ≠ .sending).flatMap Hold.chain
      ∧ (∀ e ∈ s.holds, e.state ≠ .sending → (∃ x, u.findSeen e.ident = some x ∧ x.status = .dropped)
          ∧ ∀ k, e.slot = some k → u.slots[k] = .complete e.ident.serial (.dropped .silenced) e.attempts)
      ∧ (∀ a, s.tx = some a → u.tx = if a.phase = .assessing then none else some a)
      ∧ (∀ r, s.beacon = .inAttempt r → (∃ a, s.tx = some a ∧ a.phase = .assessing) → u.beacon = .due r)
      ∧ (s.hushHead = .inAttempt → (∃ a, s.tx = some a ∧ a.phase = .assessing) → u.hushHead = .standing)
      ∧ ((∀ a, s.tx = some a → a.phase ≠ .assessing) → u.beacon = s.beacon ∧ u.hushHead = s.hushHead)
      ∧ u.burst = (if (s.burst = .inAttempt ∧ s.tx.any Attempt.pastAssessing) ∨ s.burst = .ending then .ending
          else .stopped)

/-- RESUME moves SILENT to RUNNING; an idle transmitter is granted at once in the order of R15: beacon, HUSH, READY entry,
survey frame; where the receiver has a frame, what is granted is deferred at once. With none standing nothing else
changes. -/
def Obligations.ResumeGrantsWhatStands : Prop :=
  ∀ (t : Time) (s : State), s.station = .silent →
    ∃ u, exec (.resume t) s = .next u ∧ u.station = .running ∧ u.response = [0x00]
      ∧ (s.settle = s → s.nextRequest = none ∨ s.tx.isSome →
          u = { Claim.answered s t [0x00] with station := .running })
      ∧ (s.tx = none → s.rx = .searching → Claim.GrantedInOrder s u)
      ∧ (s.tx = none → Claim.Engaged s → u.tx = none
        ∧ (∀ r, s.beacon = .due r → u.beacon = .backoff (Claim.backoff s (max s.now t / 96)) r)
        ∧ ((∀ r, s.beacon ≠ .due r) → s.hushQueue ≠ [] → s.hushHead = .standing →
          u.hushHead = .backoff (Claim.backoff s (max s.now t / 96))))

/-- SURVEY starts a burst with clamped arguments when none runs, its first frame granted at once by a free transmitter and
granted and deferred at once where the receiver has a frame; it is BAD_STATE otherwise. STOP_SURVEY ends one: a frame
in ASSESSING is cancelled, and what else stands is then granted in the order of R15; one past it is let finish. -/
def Obligations.SurveyBurstsStartAndStop : Prop :=
  ∀ (t : Time) (count interval : BitVec 16) (rate fill : Byte) (s : State),
    (s.station = .running → s.burst ≠ .stopped →
      exec (.survey t count interval rate fill) s = .next (Claim.answered s t [0x02]))
    ∧ (s.station = .running → s.burst = .stopped →
      ∃ u, exec (.survey t count interval rate fill) s = .next u ∧ u.response = [0x00] ∧ u.fetching = none
        ∧ u.burstRec = ⟨max 1 (min 1000 count.toNat), max 10 (min 1000 interval.toNat),
            if rate = 0 then .slow else if rate = 1 then .mid else .fast, min 48 fill.toNat, 0, 0⟩
        ∧ (s.tx.isSome → u.burst = .due)
        ∧ (Claim.FreeToGrant s → u.burst = .inAttempt
            ∧ Claim.GrantedTo .survey u.burstRec.rate s u)
        ∧ (s.tx = none → s.nextRequest = none → Claim.Engaged s → u.tx = none
            ∧ u.burst = .backoff (Claim.backoff s (max s.now t / 96)) ∧ u.jitter = jitterStep s.jitter))
    ∧ (s.station = .running ∨ s.station = .silent → s.settle = s → OwnerLaw s →
      (s.station = .silent ∨ s.nextRequest = none ∨ s.nextRequest = some .survey
        ∨ ∃ a, s.tx = some a ∧ (a.owner ≠ .survey ∨ a.phase ≠ .assessing)) →
      ∃ u, exec (.stopSurvey t) s = .next u
        ∧ u = { Claim.answered s t [0x00] with burst := u.burst, tx := u.tx }
        ∧ (∀ a, s.tx = some a → a.owner = .survey → a.phase = .assessing → u.tx = none ∧ u.burst = .stopped)
        ∧ ((∀ a, s.tx = some a → a.owner = .survey → a.phase ≠ .assessing) → u.tx = s.tx
          ∧ u.burst = if s.burst = .inAttempt ∨ s.burst = .ending then .ending else .stopped))
    ∧ (s.station = .running → s.settle = s → ∀ a, s.tx = some a → a.owner = .survey → a.phase = .assessing →
      ∃ u, exec (.stopSurvey t) s = .next u ∧ u.response = [0x00] ∧ u.burst = .stopped ∧ u.burstRec = s.burstRec
        ∧ (¬Claim.Engaged s → Claim.GrantedInOrder { s with burst := .stopped } u
          ∧ u = { Claim.answered s t [0x00] with
              burst := .stopped, tx := u.tx, beacon := u.beacon, hushHead := u.hushHead, hold := u.hold })
        ∧ (Claim.Engaged s → u.tx = none))

/-! ### Laws of the whole machine -/

/-- Every step keeps: station state, loader and record agree, and a station before RUNNING is at its reset values, among
them the model's own: the STANDING head of an empty HUSH queue (log 5) and no FETCH open (log 7). -/
def Obligations.StartLawIsKept : Prop := Kept StartLaw

/-- Every step keeps each block on the free list or in exactly one chain, with chains as long as their payloads need.
Every step keeps the message store's canonical form, which is the model's way to hold the bytes (log 6). -/
def Obligations.StoreAndBlocksAreKept : Prop :=
  (Kept BlockLaw ∧ Kept ChainLaw)
    ∧ (Kept StoreForm)

/-- Every step keeps the neighbour table's addresses apart and its fields in range, and the ranks those of R44. -/
def Obligations.TableAndRanksAreKept : Prop := Kept TableLaw ∧ Kept RankLaw

/-- Every step keeps hold entries and PENDING seen entries matched one to one. An insertion adds the entry at the tail; a
list of 64 first loses its oldest entry that is not PENDING. -/
def Obligations.SeenLawIsKept : Prop :=
  Kept SeenLaw
    ∧ (∀ (s : State) (e : Seen), s.seen.length < 64 → (s.insertSeen e).seen = s.seen ++ [e])
    ∧ ∀ (s : State) (e x : Seen) (before after : List Seen), s.seen = before ++ x :: after → 64 ≤ s.seen.length →
      (∀ y ∈ before, y.status = .pending) → x.status ≠ .pending → (s.insertSeen e).seen = before ++ after ++ [e]

/-- Every step keeps every PENDING slot with exactly one hold entry. -/
def Obligations.SlotLawIsKept : Prop := Kept SlotLaw

/-- Every step keeps the counters, the ring, the HUSH queue and the tally in range, and power code, rate level and
streaks in their bounds. Every step keeps the jitter generator from zero, given the start-up law. -/
def Obligations.BoundsAndJitterAreKept : Prop :=
  (Kept CountLaw ∧ Kept AdaptLaw)
    ∧ (Kept JitterLaw)

/-- Every step keeps the part from transmitting but while RUNNING, or to finish a frame in SILENT, and the receiver OFF
exactly before RUNNING and past ASSESSING. RFTXON is set for transmit past ASSESSING; RFEN is asserted with the receiver
on or past ASSESSING, which is throughout RUNNING and SILENT, and released before. -/
def Obligations.RadioLawIsKept : Prop :=
  Kept RadioLaw
    ∧ ∀ s : State,
      let past := ∃ a, s.tx = some a ∧ a.phase ≠ .assessing
      (s.rftxon = true ↔ past) ∧ (s.rfen = true ↔ s.rx ≠ .off ∨ past)
        ∧ (RadioLaw s → (s.rfen = true ↔ s.station = .running ∨ s.station = .silent))

/-- Every step keeps an idle transmitter of a RUNNING station without a standing request. -/
def Obligations.GrantLawIsKept : Prop := Kept GrantLaw

/-- Every step keeps the attempt in progress and its owner's record in agreement, and the attempts and defers of every
hold entry within their limits. That the head of an empty HUSH queue reads STANDING is the model's choice (log 5). -/
def Obligations.OwnerAndHoldLawsAreKept : Prop := Kept OwnerLaw ∧ Kept HoldLaw

/-- Every step keeps every event status as its mask, kind, latch and condition decide. ATTN is asserted while at least one
of the twelve statuses is set, and released while none is. -/
def Obligations.EventLawIsKept : Prop :=
  Kept EventLaw ∧ ∀ s : State, s.attn = true ↔ ∃ b, b < 12 ∧ s.statuses.getLsbD b = true

end Slice0Statements
end

