-- ==== Sys2Proof/Laws/State.lean ====
section
/-! SUPPORT. One lemma per field per named update of State, each true by definition, so that no proof unfolds a
record update. -/

namespace Sys2Proof.Machine

/-! ### advance -/

@[simp] theorem State.advance_now (s : State) (t : Time) : (s.advance t).now = max s.now t := rfl
@[simp] theorem State.advance_pending (s : State) (t : Time) : (s.advance t).pending = s.pending := rfl
@[simp] theorem State.advance_station (s : State) (t : Time) : (s.advance t).station = s.station := rfl
@[simp] theorem State.advance_loader (s : State) (t : Time) : (s.advance t).loader = s.loader := rfl
@[simp] theorem State.advance_record (s : State) (t : Time) : (s.advance t).record = s.record := rfl
@[simp] theorem State.advance_rx (s : State) (t : Time) : (s.advance t).rx = s.rx := rfl
@[simp] theorem State.advance_tx (s : State) (t : Time) : (s.advance t).tx = s.tx := rfl
@[simp] theorem State.advance_rftx (s : State) (t : Time) : (s.advance t).rftx = s.rftx := rfl
@[simp] theorem State.advance_drive (s : State) (t : Time) : (s.advance t).drive = s.drive := rfl
@[simp] theorem State.advance_jitter (s : State) (t : Time) : (s.advance t).jitter = s.jitter := rfl
@[simp] theorem State.advance_table (s : State) (t : Time) : (s.advance t).table = s.table := rfl
@[simp] theorem State.advance_ranks (s : State) (t : Time) : (s.advance t).ranks = s.ranks := rfl
@[simp] theorem State.advance_beacon (s : State) (t : Time) : (s.advance t).beacon = s.beacon := rfl
@[simp] theorem State.advance_beaconSerial (s : State) (t : Time) : (s.advance t).beaconSerial = s.beaconSerial := rfl
@[simp] theorem State.advance_seen (s : State) (t : Time) : (s.advance t).seen = s.seen := rfl
@[simp] theorem State.advance_hold (s : State) (t : Time) : (s.advance t).hold = s.hold := rfl
@[simp] theorem State.advance_hushQueue (s : State) (t : Time) : (s.advance t).hushQueue = s.hushQueue := rfl
@[simp] theorem State.advance_hushHead (s : State) (t : Time) : (s.advance t).hushHead = s.hushHead := rfl
@[simp] theorem State.advance_mem (s : State) (t : Time) : (s.advance t).mem = s.mem := rfl
@[simp] theorem State.advance_free (s : State) (t : Time) : (s.advance t).free = s.free := rfl
@[simp] theorem State.advance_cursor (s : State) (t : Time) : (s.advance t).cursor = s.cursor := rfl
@[simp] theorem State.advance_power (s : State) (t : Time) : (s.advance t).power = s.power := rfl
@[simp] theorem State.advance_rate (s : State) (t : Time) : (s.advance t).rate = s.rate := rfl
@[simp] theorem State.advance_echoed (s : State) (t : Time) : (s.advance t).echoed = s.echoed := rfl
@[simp] theorem State.advance_unechoed (s : State) (t : Time) : (s.advance t).unechoed = s.unechoed := rfl
@[simp] theorem State.advance_ring (s : State) (t : Time) : (s.advance t).ring = s.ring := rfl
@[simp] theorem State.advance_slots (s : State) (t : Time) : (s.advance t).slots = s.slots := rfl
@[simp] theorem State.advance_serial (s : State) (t : Time) : (s.advance t).serial = s.serial := rfl
@[simp] theorem State.advance_tableCursor (s : State) (t : Time) : (s.advance t).tableCursor = s.tableCursor := rfl
@[simp] theorem State.advance_response (s : State) (t : Time) : (s.advance t).response = s.response := rfl
@[simp] theorem State.advance_fetching (s : State) (t : Time) : (s.advance t).fetching = s.fetching := rfl
@[simp] theorem State.advance_masks (s : State) (t : Time) : (s.advance t).masks = s.masks := rfl
@[simp] theorem State.advance_modes (s : State) (t : Time) : (s.advance t).modes = s.modes := rfl
@[simp] theorem State.advance_latches (s : State) (t : Time) : (s.advance t).latches = s.latches := rfl
@[simp] theorem State.advance_statuses (s : State) (t : Time) : (s.advance t).statuses = s.statuses := rfl
@[simp] theorem State.advance_stretch (s : State) (t : Time) : (s.advance t).stretch = s.stretch := rfl
@[simp] theorem State.advance_alternation (s : State) (t : Time) : (s.advance t).alternation = s.alternation := rfl
@[simp] theorem State.advance_burst (s : State) (t : Time) : (s.advance t).burst = s.burst := rfl
@[simp] theorem State.advance_burstRec (s : State) (t : Time) : (s.advance t).burstRec = s.burstRec := rfl
@[simp] theorem State.advance_tally (s : State) (t : Time) : (s.advance t).tally = s.tally := rfl
@[simp] theorem State.advance_stats (s : State) (t : Time) : (s.advance t).stats = s.stats := rfl
@[simp] theorem State.advance_unstated (s : State) (t : Time) : (s.advance t).unstated = s.unstated := rfl
@[simp] theorem State.advance_cfg (s : State) (t : Time) : (s.advance t).cfg = s.cfg := rfl
@[simp] theorem State.advance_own (s : State) (t : Time) : (s.advance t).own = s.own := rfl
@[simp] theorem State.advance_ownIndex (s : State) (t : Time) : (s.advance t).ownIndex = s.ownIndex := rfl
@[simp] theorem State.advance_nowMs (s : State) (t : Time) : (s.advance t).nowMs = max s.now t / 96 := rfl

/-! ### drawn -/

@[simp] theorem State.drawn_now (s : State) : s.drawn.now = s.now := rfl
@[simp] theorem State.drawn_pending (s : State) : s.drawn.pending = s.pending := rfl
@[simp] theorem State.drawn_station (s : State) : s.drawn.station = s.station := rfl
@[simp] theorem State.drawn_loader (s : State) : s.drawn.loader = s.loader := rfl
@[simp] theorem State.drawn_record (s : State) : s.drawn.record = s.record := rfl
@[simp] theorem State.drawn_rx (s : State) : s.drawn.rx = s.rx := rfl
@[simp] theorem State.drawn_tx (s : State) : s.drawn.tx = s.tx := rfl
@[simp] theorem State.drawn_rftx (s : State) : s.drawn.rftx = s.rftx := rfl
@[simp] theorem State.drawn_drive (s : State) : s.drawn.drive = s.drive := rfl
@[simp] theorem State.drawn_jitter (s : State) : s.drawn.jitter = jitterStep s.jitter := rfl
@[simp] theorem State.drawn_table (s : State) : s.drawn.table = s.table := rfl
@[simp] theorem State.drawn_ranks (s : State) : s.drawn.ranks = s.ranks := rfl
@[simp] theorem State.drawn_beacon (s : State) : s.drawn.beacon = s.beacon := rfl
@[simp] theorem State.drawn_beaconSerial (s : State) : s.drawn.beaconSerial = s.beaconSerial := rfl
@[simp] theorem State.drawn_seen (s : State) : s.drawn.seen = s.seen := rfl
@[simp] theorem State.drawn_hold (s : State) : s.drawn.hold = s.hold := rfl
@[simp] theorem State.drawn_hushQueue (s : State) : s.drawn.hushQueue = s.hushQueue := rfl
@[simp] theorem State.drawn_hushHead (s : State) : s.drawn.hushHead = s.hushHead := rfl
@[simp] theorem State.drawn_mem (s : State) : s.drawn.mem = s.mem := rfl
@[simp] theorem State.drawn_free (s : State) : s.drawn.free = s.free := rfl
@[simp] theorem State.drawn_cursor (s : State) : s.drawn.cursor = s.cursor := rfl
@[simp] theorem State.drawn_power (s : State) : s.drawn.power = s.power := rfl
@[simp] theorem State.drawn_rate (s : State) : s.drawn.rate = s.rate := rfl
@[simp] theorem State.drawn_echoed (s : State) : s.drawn.echoed = s.echoed := rfl
@[simp] theorem State.drawn_unechoed (s : State) : s.drawn.unechoed = s.unechoed := rfl
@[simp] theorem State.drawn_ring (s : State) : s.drawn.ring = s.ring := rfl
@[simp] theorem State.drawn_slots (s : State) : s.drawn.slots = s.slots := rfl
@[simp] theorem State.drawn_serial (s : State) : s.drawn.serial = s.serial := rfl
@[simp] theorem State.drawn_tableCursor (s : State) : s.drawn.tableCursor = s.tableCursor := rfl
@[simp] theorem State.drawn_response (s : State) : s.drawn.response = s.response := rfl
@[simp] theorem State.drawn_fetching (s : State) : s.drawn.fetching = s.fetching := rfl
@[simp] theorem State.drawn_masks (s : State) : s.drawn.masks = s.masks := rfl
@[simp] theorem State.drawn_modes (s : State) : s.drawn.modes = s.modes := rfl
@[simp] theorem State.drawn_latches (s : State) : s.drawn.latches = s.latches := rfl
@[simp] theorem State.drawn_statuses (s : State) : s.drawn.statuses = s.statuses := rfl
@[simp] theorem State.drawn_stretch (s : State) : s.drawn.stretch = s.stretch := rfl
@[simp] theorem State.drawn_alternation (s : State) : s.drawn.alternation = s.alternation := rfl
@[simp] theorem State.drawn_burst (s : State) : s.drawn.burst = s.burst := rfl
@[simp] theorem State.drawn_burstRec (s : State) : s.drawn.burstRec = s.burstRec := rfl
@[simp] theorem State.drawn_tally (s : State) : s.drawn.tally = s.tally := rfl
@[simp] theorem State.drawn_stats (s : State) : s.drawn.stats = s.stats := rfl
@[simp] theorem State.drawn_unstated (s : State) : s.drawn.unstated = s.unstated := rfl
@[simp] theorem State.drawn_cfg (s : State) : s.drawn.cfg = s.cfg := rfl
@[simp] theorem State.drawn_own (s : State) : s.drawn.own = s.own := rfl
@[simp] theorem State.drawn_ownIndex (s : State) : s.drawn.ownIndex = s.ownIndex := rfl
@[simp] theorem State.drawn_nowMs (s : State) : s.drawn.nowMs = s.nowMs := rfl

/-! ### count -/

@[simp] theorem State.count_now (s : State) (f : Stats → Stats) : (s.count f).now = s.now := rfl
@[simp] theorem State.count_pending (s : State) (f : Stats → Stats) : (s.count f).pending = s.pending := rfl
@[simp] theorem State.count_station (s : State) (f : Stats → Stats) : (s.count f).station = s.station := rfl
@[simp] theorem State.count_loader (s : State) (f : Stats → Stats) : (s.count f).loader = s.loader := rfl
@[simp] theorem State.count_record (s : State) (f : Stats → Stats) : (s.count f).record = s.record := rfl
@[simp] theorem State.count_rx (s : State) (f : Stats → Stats) : (s.count f).rx = s.rx := rfl
@[simp] theorem State.count_tx (s : State) (f : Stats → Stats) : (s.count f).tx = s.tx := rfl
@[simp] theorem State.count_rftx (s : State) (f : Stats → Stats) : (s.count f).rftx = s.rftx := rfl
@[simp] theorem State.count_drive (s : State) (f : Stats → Stats) : (s.count f).drive = s.drive := rfl
@[simp] theorem State.count_jitter (s : State) (f : Stats → Stats) : (s.count f).jitter = s.jitter := rfl
@[simp] theorem State.count_table (s : State) (f : Stats → Stats) : (s.count f).table = s.table := rfl
@[simp] theorem State.count_ranks (s : State) (f : Stats → Stats) : (s.count f).ranks = s.ranks := rfl
@[simp] theorem State.count_beacon (s : State) (f : Stats → Stats) : (s.count f).beacon = s.beacon := rfl
@[simp] theorem State.count_beaconSerial (s : State) (f : Stats → Stats) :
    (s.count f).beaconSerial = s.beaconSerial := rfl
@[simp] theorem State.count_seen (s : State) (f : Stats → Stats) : (s.count f).seen = s.seen := rfl
@[simp] theorem State.count_hold (s : State) (f : Stats → Stats) : (s.count f).hold = s.hold := rfl
@[simp] theorem State.count_hushQueue (s : State) (f : Stats → Stats) : (s.count f).hushQueue = s.hushQueue := rfl
@[simp] theorem State.count_hushHead (s : State) (f : Stats → Stats) : (s.count f).hushHead = s.hushHead := rfl
@[simp] theorem State.count_mem (s : State) (f : Stats → Stats) : (s.count f).mem = s.mem := rfl
@[simp] theorem State.count_free (s : State) (f : Stats → Stats) : (s.count f).free = s.free := rfl
@[simp] theorem State.count_cursor (s : State) (f : Stats → Stats) : (s.count f).cursor = s.cursor := rfl
@[simp] theorem State.count_power (s : State) (f : Stats → Stats) : (s.count f).power = s.power := rfl
@[simp] theorem State.count_rate (s : State) (f : Stats → Stats) : (s.count f).rate = s.rate := rfl
@[simp] theorem State.count_echoed (s : State) (f : Stats → Stats) : (s.count f).echoed = s.echoed := rfl
@[simp] theorem State.count_unechoed (s : State) (f : Stats → Stats) : (s.count f).unechoed = s.unechoed := rfl
@[simp] theorem State.count_ring (s : State) (f : Stats → Stats) : (s.count f).ring = s.ring := rfl
@[simp] theorem State.count_slots (s : State) (f : Stats → Stats) : (s.count f).slots = s.slots := rfl
@[simp] theorem State.count_serial (s : State) (f : Stats → Stats) : (s.count f).serial = s.serial := rfl
@[simp] theorem State.count_tableCursor (s : State) (f : Stats → Stats) :
    (s.count f).tableCursor = s.tableCursor := rfl
@[simp] theorem State.count_response (s : State) (f : Stats → Stats) : (s.count f).response = s.response := rfl
@[simp] theorem State.count_fetching (s : State) (f : Stats → Stats) : (s.count f).fetching = s.fetching := rfl
@[simp] theorem State.count_masks (s : State) (f : Stats → Stats) : (s.count f).masks = s.masks := rfl
@[simp] theorem State.count_modes (s : State) (f : Stats → Stats) : (s.count f).modes = s.modes := rfl
@[simp] theorem State.count_latches (s : State) (f : Stats → Stats) : (s.count f).latches = s.latches := rfl
@[simp] theorem State.count_statuses (s : State) (f : Stats → Stats) : (s.count f).statuses = s.statuses := rfl
@[simp] theorem State.count_stretch (s : State) (f : Stats → Stats) : (s.count f).stretch = s.stretch := rfl
@[simp] theorem State.count_alternation (s : State) (f : Stats → Stats) :
    (s.count f).alternation = s.alternation := rfl
@[simp] theorem State.count_burst (s : State) (f : Stats → Stats) : (s.count f).burst = s.burst := rfl
@[simp] theorem State.count_burstRec (s : State) (f : Stats → Stats) : (s.count f).burstRec = s.burstRec := rfl
@[simp] theorem State.count_tally (s : State) (f : Stats → Stats) : (s.count f).tally = s.tally := rfl
@[simp] theorem State.count_stats (s : State) (f : Stats → Stats) : (s.count f).stats = f s.stats := rfl
@[simp] theorem State.count_unstated (s : State) (f : Stats → Stats) : (s.count f).unstated = s.unstated := rfl
@[simp] theorem State.count_cfg (s : State) (f : Stats → Stats) : (s.count f).cfg = s.cfg := rfl
@[simp] theorem State.count_own (s : State) (f : Stats → Stats) : (s.count f).own = s.own := rfl
@[simp] theorem State.count_ownIndex (s : State) (f : Stats → Stats) : (s.count f).ownIndex = s.ownIndex := rfl
@[simp] theorem State.count_nowMs (s : State) (f : Stats → Stats) : (s.count f).nowMs = s.nowMs := rfl

/-! ### answer -/

@[simp] theorem State.answer_now (s : State) (b : List Byte) : (s.answer b).now = s.now := rfl
@[simp] theorem State.answer_pending (s : State) (b : List Byte) : (s.answer b).pending = s.pending := rfl
@[simp] theorem State.answer_station (s : State) (b : List Byte) : (s.answer b).station = s.station := rfl
@[simp] theorem State.answer_loader (s : State) (b : List Byte) : (s.answer b).loader = s.loader := rfl
@[simp] theorem State.answer_record (s : State) (b : List Byte) : (s.answer b).record = s.record := rfl
@[simp] theorem State.answer_rx (s : State) (b : List Byte) : (s.answer b).rx = s.rx := rfl
@[simp] theorem State.answer_tx (s : State) (b : List Byte) : (s.answer b).tx = s.tx := rfl
@[simp] theorem State.answer_rftx (s : State) (b : List Byte) : (s.answer b).rftx = s.rftx := rfl
@[simp] theorem State.answer_drive (s : State) (b : List Byte) : (s.answer b).drive = s.drive := rfl
@[simp] theorem State.answer_jitter (s : State) (b : List Byte) : (s.answer b).jitter = s.jitter := rfl
@[simp] theorem State.answer_table (s : State) (b : List Byte) : (s.answer b).table = s.table := rfl
@[simp] theorem State.answer_ranks (s : State) (b : List Byte) : (s.answer b).ranks = s.ranks := rfl
@[simp] theorem State.answer_beacon (s : State) (b : List Byte) : (s.answer b).beacon = s.beacon := rfl
@[simp] theorem State.answer_beaconSerial (s : State) (b : List Byte) :
    (s.answer b).beaconSerial = s.beaconSerial := rfl
@[simp] theorem State.answer_seen (s : State) (b : List Byte) : (s.answer b).seen = s.seen := rfl
@[simp] theorem State.answer_hold (s : State) (b : List Byte) : (s.answer b).hold = s.hold := rfl
@[simp] theorem State.answer_hushQueue (s : State) (b : List Byte) : (s.answer b).hushQueue = s.hushQueue := rfl
@[simp] theorem State.answer_hushHead (s : State) (b : List Byte) : (s.answer b).hushHead = s.hushHead := rfl
@[simp] theorem State.answer_mem (s : State) (b : List Byte) : (s.answer b).mem = s.mem := rfl
@[simp] theorem State.answer_free (s : State) (b : List Byte) : (s.answer b).free = s.free := rfl
@[simp] theorem State.answer_cursor (s : State) (b : List Byte) : (s.answer b).cursor = s.cursor := rfl
@[simp] theorem State.answer_power (s : State) (b : List Byte) : (s.answer b).power = s.power := rfl
@[simp] theorem State.answer_rate (s : State) (b : List Byte) : (s.answer b).rate = s.rate := rfl
@[simp] theorem State.answer_echoed (s : State) (b : List Byte) : (s.answer b).echoed = s.echoed := rfl
@[simp] theorem State.answer_unechoed (s : State) (b : List Byte) : (s.answer b).unechoed = s.unechoed := rfl
@[simp] theorem State.answer_ring (s : State) (b : List Byte) : (s.answer b).ring = s.ring := rfl
@[simp] theorem State.answer_slots (s : State) (b : List Byte) : (s.answer b).slots = s.slots := rfl
@[simp] theorem State.answer_serial (s : State) (b : List Byte) : (s.answer b).serial = s.serial := rfl
@[simp] theorem State.answer_tableCursor (s : State) (b : List Byte) : (s.answer b).tableCursor = s.tableCursor := rfl
@[simp] theorem State.answer_response (s : State) (b : List Byte) : (s.answer b).response = b := rfl
@[simp] theorem State.answer_fetching (s : State) (b : List Byte) : (s.answer b).fetching = none := rfl
@[simp] theorem State.answer_masks (s : State) (b : List Byte) : (s.answer b).masks = s.masks := rfl
@[simp] theorem State.answer_modes (s : State) (b : List Byte) : (s.answer b).modes = s.modes := rfl
@[simp] theorem State.answer_latches (s : State) (b : List Byte) : (s.answer b).latches = s.latches := rfl
@[simp] theorem State.answer_statuses (s : State) (b : List Byte) : (s.answer b).statuses = s.statuses := rfl
@[simp] theorem State.answer_stretch (s : State) (b : List Byte) : (s.answer b).stretch = s.stretch := rfl
@[simp] theorem State.answer_alternation (s : State) (b : List Byte) : (s.answer b).alternation = s.alternation := rfl
@[simp] theorem State.answer_burst (s : State) (b : List Byte) : (s.answer b).burst = s.burst := rfl
@[simp] theorem State.answer_burstRec (s : State) (b : List Byte) : (s.answer b).burstRec = s.burstRec := rfl
@[simp] theorem State.answer_tally (s : State) (b : List Byte) : (s.answer b).tally = s.tally := rfl
@[simp] theorem State.answer_stats (s : State) (b : List Byte) : (s.answer b).stats = s.stats := rfl
@[simp] theorem State.answer_unstated (s : State) (b : List Byte) : (s.answer b).unstated = s.unstated := rfl
@[simp] theorem State.answer_cfg (s : State) (b : List Byte) : (s.answer b).cfg = s.cfg := rfl
@[simp] theorem State.answer_own (s : State) (b : List Byte) : (s.answer b).own = s.own := rfl
@[simp] theorem State.answer_ownIndex (s : State) (b : List Byte) : (s.answer b).ownIndex = s.ownIndex := rfl
@[simp] theorem State.answer_nowMs (s : State) (b : List Byte) : (s.answer b).nowMs = s.nowMs := rfl

/-! ### setHold -/

@[simp] theorem State.setHold_now (s : State) (i : Fin 16) (e : Option Hold) : (s.setHold i e).now = s.now := rfl
@[simp] theorem State.setHold_pending (s : State) (i : Fin 16) (e : Option Hold) :
    (s.setHold i e).pending = s.pending := rfl
@[simp] theorem State.setHold_station (s : State) (i : Fin 16) (e : Option Hold) :
    (s.setHold i e).station = s.station := rfl
@[simp] theorem State.setHold_loader (s : State) (i : Fin 16) (e : Option Hold) :
    (s.setHold i e).loader = s.loader := rfl
@[simp] theorem State.setHold_record (s : State) (i : Fin 16) (e : Option Hold) :
    (s.setHold i e).record = s.record := rfl
@[simp] theorem State.setHold_rx (s : State) (i : Fin 16) (e : Option Hold) : (s.setHold i e).rx = s.rx := rfl
@[simp] theorem State.setHold_tx (s : State) (i : Fin 16) (e : Option Hold) : (s.setHold i e).tx = s.tx := rfl
@[simp] theorem State.setHold_rftx (s : State) (i : Fin 16) (e : Option Hold) : (s.setHold i e).rftx = s.rftx := rfl
@[simp] theorem State.setHold_drive (s : State) (i : Fin 16) (e : Option Hold) :
    (s.setHold i e).drive = s.drive := rfl
@[simp] theorem State.setHold_jitter (s : State) (i : Fin 16) (e : Option Hold) :
    (s.setHold i e).jitter = s.jitter := rfl
@[simp] theorem State.setHold_table (s : State) (i : Fin 16) (e : Option Hold) :
    (s.setHold i e).table = s.table := rfl
@[simp] theorem State.setHold_ranks (s : State) (i : Fin 16) (e : Option Hold) :
    (s.setHold i e).ranks = s.ranks := rfl
@[simp] theorem State.setHold_beacon (s : State) (i : Fin 16) (e : Option Hold) :
    (s.setHold i e).beacon = s.beacon := rfl
@[simp] theorem State.setHold_beaconSerial (s : State) (i : Fin 16) (e : Option Hold) :
    (s.setHold i e).beaconSerial = s.beaconSerial := rfl
@[simp] theorem State.setHold_seen (s : State) (i : Fin 16) (e : Option Hold) : (s.setHold i e).seen = s.seen := rfl
@[simp] theorem State.setHold_hold (s : State) (i : Fin 16) (e : Option Hold) :
    (s.setHold i e).hold = setAt s.hold i e := rfl
@[simp] theorem State.setHold_hushQueue (s : State) (i : Fin 16) (e : Option Hold) :
    (s.setHold i e).hushQueue = s.hushQueue := rfl
@[simp] theorem State.setHold_hushHead (s : State) (i : Fin 16) (e : Option Hold) :
    (s.setHold i e).hushHead = s.hushHead := rfl
@[simp] theorem State.setHold_mem (s : State) (i : Fin 16) (e : Option Hold) : (s.setHold i e).mem = s.mem := rfl
@[simp] theorem State.setHold_free (s : State) (i : Fin 16) (e : Option Hold) : (s.setHold i e).free = s.free := rfl
@[simp] theorem State.setHold_cursor (s : State) (i : Fin 16) (e : Option Hold) :
    (s.setHold i e).cursor = s.cursor := rfl
@[simp] theorem State.setHold_power (s : State) (i : Fin 16) (e : Option Hold) :
    (s.setHold i e).power = s.power := rfl
@[simp] theorem State.setHold_rate (s : State) (i : Fin 16) (e : Option Hold) : (s.setHold i e).rate = s.rate := rfl
@[simp] theorem State.setHold_echoed (s : State) (i : Fin 16) (e : Option Hold) :
    (s.setHold i e).echoed = s.echoed := rfl
@[simp] theorem State.setHold_unechoed (s : State) (i : Fin 16) (e : Option Hold) :
    (s.setHold i e).unechoed = s.unechoed := rfl
@[simp] theorem State.setHold_ring (s : State) (i : Fin 16) (e : Option Hold) : (s.setHold i e).ring = s.ring := rfl
@[simp] theorem State.setHold_slots (s : State) (i : Fin 16) (e : Option Hold) :
    (s.setHold i e).slots = s.slots := rfl
@[simp] theorem State.setHold_serial (s : State) (i : Fin 16) (e : Option Hold) :
    (s.setHold i e).serial = s.serial := rfl
@[simp] theorem State.setHold_tableCursor (s : State) (i : Fin 16) (e : Option Hold) :
    (s.setHold i e).tableCursor = s.tableCursor := rfl
@[simp] theorem State.setHold_response (s : State) (i : Fin 16) (e : Option Hold) :
    (s.setHold i e).response = s.response := rfl
@[simp] theorem State.setHold_fetching (s : State) (i : Fin 16) (e : Option Hold) :
    (s.setHold i e).fetching = s.fetching := rfl
@[simp] theorem State.setHold_masks (s : State) (i : Fin 16) (e : Option Hold) :
    (s.setHold i e).masks = s.masks := rfl
@[simp] theorem State.setHold_modes (s : State) (i : Fin 16) (e : Option Hold) :
    (s.setHold i e).modes = s.modes := rfl
@[simp] theorem State.setHold_latches (s : State) (i : Fin 16) (e : Option Hold) :
    (s.setHold i e).latches = s.latches := rfl
@[simp] theorem State.setHold_statuses (s : State) (i : Fin 16) (e : Option Hold) :
    (s.setHold i e).statuses = s.statuses := rfl
@[simp] theorem State.setHold_stretch (s : State) (i : Fin 16) (e : Option Hold) :
    (s.setHold i e).stretch = s.stretch := rfl
@[simp] theorem State.setHold_alternation (s : State) (i : Fin 16) (e : Option Hold) :
    (s.setHold i e).alternation = s.alternation := rfl
@[simp] theorem State.setHold_burst (s : State) (i : Fin 16) (e : Option Hold) :
    (s.setHold i e).burst = s.burst := rfl
@[simp] theorem State.setHold_burstRec (s : State) (i : Fin 16) (e : Option Hold) :
    (s.setHold i e).burstRec = s.burstRec := rfl
@[simp] theorem State.setHold_tally (s : State) (i : Fin 16) (e : Option Hold) :
    (s.setHold i e).tally = s.tally := rfl
@[simp] theorem State.setHold_stats (s : State) (i : Fin 16) (e : Option Hold) :
    (s.setHold i e).stats = s.stats := rfl
@[simp] theorem State.setHold_unstated (s : State) (i : Fin 16) (e : Option Hold) :
    (s.setHold i e).unstated = s.unstated := rfl
@[simp] theorem State.setHold_cfg (s : State) (i : Fin 16) (e : Option Hold) : (s.setHold i e).cfg = s.cfg := rfl
@[simp] theorem State.setHold_own (s : State) (i : Fin 16) (e : Option Hold) : (s.setHold i e).own = s.own := rfl
@[simp] theorem State.setHold_ownIndex (s : State) (i : Fin 16) (e : Option Hold) :
    (s.setHold i e).ownIndex = s.ownIndex := rfl
@[simp] theorem State.setHold_nowMs (s : State) (i : Fin 16) (e : Option Hold) :
    (s.setHold i e).nowMs = s.nowMs := rfl

/-! ### setNeighbour -/

@[simp] theorem State.setNeighbour_now (s : State) (i : Fin 32) (e : Option Neighbour) :
    (s.setNeighbour i e).now = s.now := rfl
@[simp] theorem State.setNeighbour_pending (s : State) (i : Fin 32) (e : Option Neighbour) :
    (s.setNeighbour i e).pending = s.pending := rfl
@[simp] theorem State.setNeighbour_station (s : State) (i : Fin 32) (e : Option Neighbour) :
    (s.setNeighbour i e).station = s.station := rfl
@[simp] theorem State.setNeighbour_loader (s : State) (i : Fin 32) (e : Option Neighbour) :
    (s.setNeighbour i e).loader = s.loader := rfl
@[simp] theorem State.setNeighbour_record (s : State) (i : Fin 32) (e : Option Neighbour) :
    (s.setNeighbour i e).record = s.record := rfl
@[simp] theorem State.setNeighbour_rx (s : State) (i : Fin 32) (e : Option Neighbour) :
    (s.setNeighbour i e).rx = s.rx := rfl
@[simp] theorem State.setNeighbour_tx (s : State) (i : Fin 32) (e : Option Neighbour) :
    (s.setNeighbour i e).tx = s.tx := rfl
@[simp] theorem State.setNeighbour_rftx (s : State) (i : Fin 32) (e : Option Neighbour) :
    (s.setNeighbour i e).rftx = s.rftx := rfl
@[simp] theorem State.setNeighbour_drive (s : State) (i : Fin 32) (e : Option Neighbour) :
    (s.setNeighbour i e).drive = s.drive := rfl
@[simp] theorem State.setNeighbour_jitter (s : State) (i : Fin 32) (e : Option Neighbour) :
    (s.setNeighbour i e).jitter = s.jitter := rfl
@[simp] theorem State.setNeighbour_table (s : State) (i : Fin 32) (e : Option Neighbour) :
    (s.setNeighbour i e).table = setAt s.table i e := rfl
@[simp] theorem State.setNeighbour_ranks (s : State) (i : Fin 32) (e : Option Neighbour) :
    (s.setNeighbour i e).ranks = s.ranks := rfl
@[simp] theorem State.setNeighbour_beacon (s : State) (i : Fin 32) (e : Option Neighbour) :
    (s.setNeighbour i e).beacon = s.beacon := rfl
@[simp] theorem State.setNeighbour_beaconSerial (s : State) (i : Fin 32) (e : Option Neighbour) :
    (s.setNeighbour i e).beaconSerial = s.beaconSerial := rfl
@[simp] theorem State.setNeighbour_seen (s : State) (i : Fin 32) (e : Option Neighbour) :
    (s.setNeighbour i e).seen = s.seen := rfl
@[simp] theorem State.setNeighbour_hold (s : State) (i : Fin 32) (e : Option Neighbour) :
    (s.setNeighbour i e).hold = s.hold := rfl
@[simp] theorem State.setNeighbour_hushQueue (s : State) (i : Fin 32) (e : Option Neighbour) :
    (s.setNeighbour i e).hushQueue = s.hushQueue := rfl
@[simp] theorem State.setNeighbour_hushHead (s : State) (i : Fin 32) (e : Option Neighbour) :
    (s.setNeighbour i e).hushHead = s.hushHead := rfl
@[simp] theorem State.setNeighbour_mem (s : State) (i : Fin 32) (e : Option Neighbour) :
    (s.setNeighbour i e).mem = s.mem := rfl
@[simp] theorem State.setNeighbour_free (s : State) (i : Fin 32) (e : Option Neighbour) :
    (s.setNeighbour i e).free = s.free := rfl
@[simp] theorem State.setNeighbour_cursor (s : State) (i : Fin 32) (e : Option Neighbour) :
    (s.setNeighbour i e).cursor = s.cursor := rfl
@[simp] theorem State.setNeighbour_power (s : State) (i : Fin 32) (e : Option Neighbour) :
    (s.setNeighbour i e).power = s.power := rfl
@[simp] theorem State.setNeighbour_rate (s : State) (i : Fin 32) (e : Option Neighbour) :
    (s.setNeighbour i e).rate = s.rate := rfl
@[simp] theorem State.setNeighbour_echoed (s : State) (i : Fin 32) (e : Option Neighbour) :
    (s.setNeighbour i e).echoed = s.echoed := rfl
@[simp] theorem State.setNeighbour_unechoed (s : State) (i : Fin 32) (e : Option Neighbour) :
    (s.setNeighbour i e).unechoed = s.unechoed := rfl
@[simp] theorem State.setNeighbour_ring (s : State) (i : Fin 32) (e : Option Neighbour) :
    (s.setNeighbour i e).ring = s.ring := rfl
@[simp] theorem State.setNeighbour_slots (s : State) (i : Fin 32) (e : Option Neighbour) :
    (s.setNeighbour i e).slots = s.slots := rfl
@[simp] theorem State.setNeighbour_serial (s : State) (i : Fin 32) (e : Option Neighbour) :
    (s.setNeighbour i e).serial = s.serial := rfl
@[simp] theorem State.setNeighbour_tableCursor (s : State) (i : Fin 32) (e : Option Neighbour) :
    (s.setNeighbour i e).tableCursor = s.tableCursor := rfl
@[simp] theorem State.setNeighbour_response (s : State) (i : Fin 32) (e : Option Neighbour) :
    (s.setNeighbour i e).response = s.response := rfl
@[simp] theorem State.setNeighbour_fetching (s : State) (i : Fin 32) (e : Option Neighbour) :
    (s.setNeighbour i e).fetching = s.fetching := rfl
@[simp] theorem State.setNeighbour_masks (s : State) (i : Fin 32) (e : Option Neighbour) :
    (s.setNeighbour i e).masks = s.masks := rfl
@[simp] theorem State.setNeighbour_modes (s : State) (i : Fin 32) (e : Option Neighbour) :
    (s.setNeighbour i e).modes = s.modes := rfl
@[simp] theorem State.setNeighbour_latches (s : State) (i : Fin 32) (e : Option Neighbour) :
    (s.setNeighbour i e).latches = s.latches := rfl
@[simp] theorem State.setNeighbour_statuses (s : State) (i : Fin 32) (e : Option Neighbour) :
    (s.setNeighbour i e).statuses = s.statuses := rfl
@[simp] theorem State.setNeighbour_stretch (s : State) (i : Fin 32) (e : Option Neighbour) :
    (s.setNeighbour i e).stretch = s.stretch := rfl
@[simp] theorem State.setNeighbour_alternation (s : State) (i : Fin 32) (e : Option Neighbour) :
    (s.setNeighbour i e).alternation = s.alternation := rfl
@[simp] theorem State.setNeighbour_burst (s : State) (i : Fin 32) (e : Option Neighbour) :
    (s.setNeighbour i e).burst = s.burst := rfl
@[simp] theorem State.setNeighbour_burstRec (s : State) (i : Fin 32) (e : Option Neighbour) :
    (s.setNeighbour i e).burstRec = s.burstRec := rfl
@[simp] theorem State.setNeighbour_tally (s : State) (i : Fin 32) (e : Option Neighbour) :
    (s.setNeighbour i e).tally = s.tally := rfl
@[simp] theorem State.setNeighbour_stats (s : State) (i : Fin 32) (e : Option Neighbour) :
    (s.setNeighbour i e).stats = s.stats := rfl
@[simp] theorem State.setNeighbour_unstated (s : State) (i : Fin 32) (e : Option Neighbour) :
    (s.setNeighbour i e).unstated = s.unstated := rfl
@[simp] theorem State.setNeighbour_cfg (s : State) (i : Fin 32) (e : Option Neighbour) :
    (s.setNeighbour i e).cfg = s.cfg := rfl
@[simp] theorem State.setNeighbour_own (s : State) (i : Fin 32) (e : Option Neighbour) :
    (s.setNeighbour i e).own = s.own := rfl
@[simp] theorem State.setNeighbour_ownIndex (s : State) (i : Fin 32) (e : Option Neighbour) :
    (s.setNeighbour i e).ownIndex = s.ownIndex := rfl
@[simp] theorem State.setNeighbour_nowMs (s : State) (i : Fin 32) (e : Option Neighbour) :
    (s.setNeighbour i e).nowMs = s.nowMs := rfl

/-! ### freeChain -/

@[simp] theorem State.freeChain_now (s : State) (c : List Block) : (s.freeChain c).now = s.now := rfl
@[simp] theorem State.freeChain_pending (s : State) (c : List Block) : (s.freeChain c).pending = s.pending := rfl
@[simp] theorem State.freeChain_station (s : State) (c : List Block) : (s.freeChain c).station = s.station := rfl
@[simp] theorem State.freeChain_loader (s : State) (c : List Block) : (s.freeChain c).loader = s.loader := rfl
@[simp] theorem State.freeChain_record (s : State) (c : List Block) : (s.freeChain c).record = s.record := rfl
@[simp] theorem State.freeChain_rx (s : State) (c : List Block) : (s.freeChain c).rx = s.rx := rfl
@[simp] theorem State.freeChain_tx (s : State) (c : List Block) : (s.freeChain c).tx = s.tx := rfl
@[simp] theorem State.freeChain_rftx (s : State) (c : List Block) : (s.freeChain c).rftx = s.rftx := rfl
@[simp] theorem State.freeChain_drive (s : State) (c : List Block) : (s.freeChain c).drive = s.drive := rfl
@[simp] theorem State.freeChain_jitter (s : State) (c : List Block) : (s.freeChain c).jitter = s.jitter := rfl
@[simp] theorem State.freeChain_table (s : State) (c : List Block) : (s.freeChain c).table = s.table := rfl
@[simp] theorem State.freeChain_ranks (s : State) (c : List Block) : (s.freeChain c).ranks = s.ranks := rfl
@[simp] theorem State.freeChain_beacon (s : State) (c : List Block) : (s.freeChain c).beacon = s.beacon := rfl
@[simp] theorem State.freeChain_beaconSerial (s : State) (c : List Block) :
    (s.freeChain c).beaconSerial = s.beaconSerial := rfl
@[simp] theorem State.freeChain_seen (s : State) (c : List Block) : (s.freeChain c).seen = s.seen := rfl
@[simp] theorem State.freeChain_hold (s : State) (c : List Block) : (s.freeChain c).hold = s.hold := rfl
@[simp] theorem State.freeChain_hushQueue (s : State) (c : List Block) :
    (s.freeChain c).hushQueue = s.hushQueue := rfl
@[simp] theorem State.freeChain_hushHead (s : State) (c : List Block) : (s.freeChain c).hushHead = s.hushHead := rfl
@[simp] theorem State.freeChain_mem (s : State) (c : List Block) : (s.freeChain c).mem = s.mem := rfl
@[simp] theorem State.freeChain_free (s : State) (c : List Block) : (s.freeChain c).free = s.free ++ c := rfl
@[simp] theorem State.freeChain_cursor (s : State) (c : List Block) : (s.freeChain c).cursor = s.cursor := rfl
@[simp] theorem State.freeChain_power (s : State) (c : List Block) : (s.freeChain c).power = s.power := rfl
@[simp] theorem State.freeChain_rate (s : State) (c : List Block) : (s.freeChain c).rate = s.rate := rfl
@[simp] theorem State.freeChain_echoed (s : State) (c : List Block) : (s.freeChain c).echoed = s.echoed := rfl
@[simp] theorem State.freeChain_unechoed (s : State) (c : List Block) : (s.freeChain c).unechoed = s.unechoed := rfl
@[simp] theorem State.freeChain_ring (s : State) (c : List Block) : (s.freeChain c).ring = s.ring := rfl
@[simp] theorem State.freeChain_slots (s : State) (c : List Block) : (s.freeChain c).slots = s.slots := rfl
@[simp] theorem State.freeChain_serial (s : State) (c : List Block) : (s.freeChain c).serial = s.serial := rfl
@[simp] theorem State.freeChain_tableCursor (s : State) (c : List Block) :
    (s.freeChain c).tableCursor = s.tableCursor := rfl
@[simp] theorem State.freeChain_response (s : State) (c : List Block) : (s.freeChain c).response = s.response := rfl
@[simp] theorem State.freeChain_fetching (s : State) (c : List Block) : (s.freeChain c).fetching = s.fetching := rfl
@[simp] theorem State.freeChain_masks (s : State) (c : List Block) : (s.freeChain c).masks = s.masks := rfl
@[simp] theorem State.freeChain_modes (s : State) (c : List Block) : (s.freeChain c).modes = s.modes := rfl
@[simp] theorem State.freeChain_latches (s : State) (c : List Block) : (s.freeChain c).latches = s.latches := rfl
@[simp] theorem State.freeChain_statuses (s : State) (c : List Block) : (s.freeChain c).statuses = s.statuses := rfl
@[simp] theorem State.freeChain_stretch (s : State) (c : List Block) : (s.freeChain c).stretch = s.stretch := rfl
@[simp] theorem State.freeChain_alternation (s : State) (c : List Block) :
    (s.freeChain c).alternation = s.alternation := rfl
@[simp] theorem State.freeChain_burst (s : State) (c : List Block) : (s.freeChain c).burst = s.burst := rfl
@[simp] theorem State.freeChain_burstRec (s : State) (c : List Block) : (s.freeChain c).burstRec = s.burstRec := rfl
@[simp] theorem State.freeChain_tally (s : State) (c : List Block) : (s.freeChain c).tally = s.tally := rfl
@[simp] theorem State.freeChain_stats (s : State) (c : List Block) : (s.freeChain c).stats = s.stats := rfl
@[simp] theorem State.freeChain_unstated (s : State) (c : List Block) : (s.freeChain c).unstated = s.unstated := rfl
@[simp] theorem State.freeChain_cfg (s : State) (c : List Block) : (s.freeChain c).cfg = s.cfg := rfl
@[simp] theorem State.freeChain_own (s : State) (c : List Block) : (s.freeChain c).own = s.own := rfl
@[simp] theorem State.freeChain_ownIndex (s : State) (c : List Block) : (s.freeChain c).ownIndex = s.ownIndex := rfl
@[simp] theorem State.freeChain_nowMs (s : State) (c : List Block) : (s.freeChain c).nowMs = s.nowMs := rfl

/-! ### settle -/

@[simp] theorem State.settle_now (s : State) : s.settle.now = s.now := rfl
@[simp] theorem State.settle_pending (s : State) : s.settle.pending = s.pending := rfl
@[simp] theorem State.settle_station (s : State) : s.settle.station = s.station := rfl
@[simp] theorem State.settle_loader (s : State) : s.settle.loader = s.loader := rfl
@[simp] theorem State.settle_record (s : State) : s.settle.record = s.record := rfl
@[simp] theorem State.settle_rx (s : State) : s.settle.rx = s.rx := rfl
@[simp] theorem State.settle_tx (s : State) : s.settle.tx = s.tx := rfl
@[simp] theorem State.settle_rftx (s : State) : s.settle.rftx = s.rftx := rfl
@[simp] theorem State.settle_drive (s : State) : s.settle.drive = s.drive := rfl
@[simp] theorem State.settle_jitter (s : State) : s.settle.jitter = s.jitter := rfl
@[simp] theorem State.settle_table (s : State) : s.settle.table = s.table := rfl
@[simp] theorem State.settle_ranks (s : State) : s.settle.ranks = s.ranks := rfl
@[simp] theorem State.settle_beacon (s : State) : s.settle.beacon = s.beacon := rfl
@[simp] theorem State.settle_beaconSerial (s : State) : s.settle.beaconSerial = s.beaconSerial := rfl
@[simp] theorem State.settle_seen (s : State) : s.settle.seen = s.seen := rfl
@[simp] theorem State.settle_hold (s : State) : s.settle.hold = s.hold := rfl
@[simp] theorem State.settle_hushQueue (s : State) : s.settle.hushQueue = s.hushQueue := rfl
@[simp] theorem State.settle_hushHead (s : State) : s.settle.hushHead = s.hushHead := rfl
@[simp] theorem State.settle_mem (s : State) : s.settle.mem = s.mem := rfl
@[simp] theorem State.settle_free (s : State) : s.settle.free = s.free := rfl
@[simp] theorem State.settle_cursor (s : State) : s.settle.cursor = s.cursor := rfl
@[simp] theorem State.settle_power (s : State) : s.settle.power = s.power := rfl
@[simp] theorem State.settle_rate (s : State) : s.settle.rate = s.rate := rfl
@[simp] theorem State.settle_echoed (s : State) : s.settle.echoed = s.echoed := rfl
@[simp] theorem State.settle_unechoed (s : State) : s.settle.unechoed = s.unechoed := rfl
@[simp] theorem State.settle_ring (s : State) : s.settle.ring = s.ring := rfl
@[simp] theorem State.settle_slots (s : State) : s.settle.slots = s.slots := rfl
@[simp] theorem State.settle_serial (s : State) : s.settle.serial = s.serial := rfl
@[simp] theorem State.settle_tableCursor (s : State) : s.settle.tableCursor = s.tableCursor := rfl
@[simp] theorem State.settle_response (s : State) : s.settle.response = s.response := rfl
@[simp] theorem State.settle_fetching (s : State) : s.settle.fetching = s.fetching := rfl
@[simp] theorem State.settle_masks (s : State) : s.settle.masks = s.masks := rfl
@[simp] theorem State.settle_modes (s : State) : s.settle.modes = s.modes := rfl
@[simp] theorem State.settle_latches (s : State) : s.settle.latches = s.latches := rfl
@[simp] theorem State.settle_stretch (s : State) : s.settle.stretch = s.stretch := rfl
@[simp] theorem State.settle_alternation (s : State) : s.settle.alternation = s.alternation := rfl
@[simp] theorem State.settle_burst (s : State) : s.settle.burst = s.burst := rfl
@[simp] theorem State.settle_burstRec (s : State) : s.settle.burstRec = s.burstRec := rfl
@[simp] theorem State.settle_tally (s : State) : s.settle.tally = s.tally := rfl
@[simp] theorem State.settle_stats (s : State) : s.settle.stats = s.stats := rfl
@[simp] theorem State.settle_unstated (s : State) : s.settle.unstated = s.unstated := rfl
@[simp] theorem State.settle_cfg (s : State) : s.settle.cfg = s.cfg := rfl
@[simp] theorem State.settle_own (s : State) : s.settle.own = s.own := rfl
@[simp] theorem State.settle_ownIndex (s : State) : s.settle.ownIndex = s.ownIndex := rfl
@[simp] theorem State.settle_nowMs (s : State) : s.settle.nowMs = s.nowMs := rfl

/-! ### report -/

@[simp] theorem State.report_now (s : State) (k : Source) : (s.report k).now = s.now := rfl
@[simp] theorem State.report_pending (s : State) (k : Source) : (s.report k).pending = s.pending := rfl
@[simp] theorem State.report_station (s : State) (k : Source) : (s.report k).station = s.station := rfl
@[simp] theorem State.report_loader (s : State) (k : Source) : (s.report k).loader = s.loader := rfl
@[simp] theorem State.report_record (s : State) (k : Source) : (s.report k).record = s.record := rfl
@[simp] theorem State.report_rx (s : State) (k : Source) : (s.report k).rx = s.rx := rfl
@[simp] theorem State.report_tx (s : State) (k : Source) : (s.report k).tx = s.tx := rfl
@[simp] theorem State.report_rftx (s : State) (k : Source) : (s.report k).rftx = s.rftx := rfl
@[simp] theorem State.report_drive (s : State) (k : Source) : (s.report k).drive = s.drive := rfl
@[simp] theorem State.report_jitter (s : State) (k : Source) : (s.report k).jitter = s.jitter := rfl
@[simp] theorem State.report_table (s : State) (k : Source) : (s.report k).table = s.table := rfl
@[simp] theorem State.report_ranks (s : State) (k : Source) : (s.report k).ranks = s.ranks := rfl
@[simp] theorem State.report_beacon (s : State) (k : Source) : (s.report k).beacon = s.beacon := rfl
@[simp] theorem State.report_beaconSerial (s : State) (k : Source) : (s.report k).beaconSerial = s.beaconSerial := rfl
@[simp] theorem State.report_seen (s : State) (k : Source) : (s.report k).seen = s.seen := rfl
@[simp] theorem State.report_hold (s : State) (k : Source) : (s.report k).hold = s.hold := rfl
@[simp] theorem State.report_hushQueue (s : State) (k : Source) : (s.report k).hushQueue = s.hushQueue := rfl
@[simp] theorem State.report_hushHead (s : State) (k : Source) : (s.report k).hushHead = s.hushHead := rfl
@[simp] theorem State.report_mem (s : State) (k : Source) : (s.report k).mem = s.mem := rfl
@[simp] theorem State.report_free (s : State) (k : Source) : (s.report k).free = s.free := rfl
@[simp] theorem State.report_cursor (s : State) (k : Source) : (s.report k).cursor = s.cursor := rfl
@[simp] theorem State.report_power (s : State) (k : Source) : (s.report k).power = s.power := rfl
@[simp] theorem State.report_rate (s : State) (k : Source) : (s.report k).rate = s.rate := rfl
@[simp] theorem State.report_echoed (s : State) (k : Source) : (s.report k).echoed = s.echoed := rfl
@[simp] theorem State.report_unechoed (s : State) (k : Source) : (s.report k).unechoed = s.unechoed := rfl
@[simp] theorem State.report_ring (s : State) (k : Source) : (s.report k).ring = s.ring := rfl
@[simp] theorem State.report_slots (s : State) (k : Source) : (s.report k).slots = s.slots := rfl
@[simp] theorem State.report_serial (s : State) (k : Source) : (s.report k).serial = s.serial := rfl
@[simp] theorem State.report_tableCursor (s : State) (k : Source) : (s.report k).tableCursor = s.tableCursor := rfl
@[simp] theorem State.report_response (s : State) (k : Source) : (s.report k).response = s.response := rfl
@[simp] theorem State.report_fetching (s : State) (k : Source) : (s.report k).fetching = s.fetching := rfl
@[simp] theorem State.report_masks (s : State) (k : Source) : (s.report k).masks = s.masks := rfl
@[simp] theorem State.report_modes (s : State) (k : Source) : (s.report k).modes = s.modes := rfl
@[simp] theorem State.report_latches (s : State) (k : Source) : (s.report k).latches = s.latches := rfl
@[simp] theorem State.report_statuses (s : State) (k : Source) :
    (s.report k).statuses = s.statuses ||| (s.masks &&& bitIf true k.bit) := rfl
@[simp] theorem State.report_stretch (s : State) (k : Source) : (s.report k).stretch = s.stretch := rfl
@[simp] theorem State.report_alternation (s : State) (k : Source) : (s.report k).alternation = s.alternation := rfl
@[simp] theorem State.report_burst (s : State) (k : Source) : (s.report k).burst = s.burst := rfl
@[simp] theorem State.report_burstRec (s : State) (k : Source) : (s.report k).burstRec = s.burstRec := rfl
@[simp] theorem State.report_tally (s : State) (k : Source) : (s.report k).tally = s.tally := rfl
@[simp] theorem State.report_stats (s : State) (k : Source) : (s.report k).stats = s.stats := rfl
@[simp] theorem State.report_unstated (s : State) (k : Source) : (s.report k).unstated = s.unstated := rfl
@[simp] theorem State.report_cfg (s : State) (k : Source) : (s.report k).cfg = s.cfg := rfl
@[simp] theorem State.report_own (s : State) (k : Source) : (s.report k).own = s.own := rfl
@[simp] theorem State.report_ownIndex (s : State) (k : Source) : (s.report k).ownIndex = s.ownIndex := rfl
@[simp] theorem State.report_nowMs (s : State) (k : Source) : (s.report k).nowMs = s.nowMs := rfl

/-! ### reportReach -/

@[simp] theorem State.reportReach_now (s : State) (a : Fin 4) (g : Bool) : (s.reportReach a g).now = s.now := rfl
@[simp] theorem State.reportReach_pending (s : State) (a : Fin 4) (g : Bool) :
    (s.reportReach a g).pending = s.pending := rfl
@[simp] theorem State.reportReach_station (s : State) (a : Fin 4) (g : Bool) :
    (s.reportReach a g).station = s.station := rfl
@[simp] theorem State.reportReach_loader (s : State) (a : Fin 4) (g : Bool) :
    (s.reportReach a g).loader = s.loader := rfl
@[simp] theorem State.reportReach_record (s : State) (a : Fin 4) (g : Bool) :
    (s.reportReach a g).record = s.record := rfl
@[simp] theorem State.reportReach_rx (s : State) (a : Fin 4) (g : Bool) : (s.reportReach a g).rx = s.rx := rfl
@[simp] theorem State.reportReach_tx (s : State) (a : Fin 4) (g : Bool) : (s.reportReach a g).tx = s.tx := rfl
@[simp] theorem State.reportReach_rftx (s : State) (a : Fin 4) (g : Bool) : (s.reportReach a g).rftx = s.rftx := rfl
@[simp] theorem State.reportReach_drive (s : State) (a : Fin 4) (g : Bool) :
    (s.reportReach a g).drive = s.drive := rfl
@[simp] theorem State.reportReach_jitter (s : State) (a : Fin 4) (g : Bool) :
    (s.reportReach a g).jitter = s.jitter := rfl
@[simp] theorem State.reportReach_table (s : State) (a : Fin 4) (g : Bool) :
    (s.reportReach a g).table = s.table := rfl
@[simp] theorem State.reportReach_ranks (s : State) (a : Fin 4) (g : Bool) :
    (s.reportReach a g).ranks = s.ranks := rfl
@[simp] theorem State.reportReach_beacon (s : State) (a : Fin 4) (g : Bool) :
    (s.reportReach a g).beacon = s.beacon := rfl
@[simp] theorem State.reportReach_beaconSerial (s : State) (a : Fin 4) (g : Bool) :
    (s.reportReach a g).beaconSerial = s.beaconSerial := rfl
@[simp] theorem State.reportReach_seen (s : State) (a : Fin 4) (g : Bool) : (s.reportReach a g).seen = s.seen := rfl
@[simp] theorem State.reportReach_hold (s : State) (a : Fin 4) (g : Bool) : (s.reportReach a g).hold = s.hold := rfl
@[simp] theorem State.reportReach_hushQueue (s : State) (a : Fin 4) (g : Bool) :
    (s.reportReach a g).hushQueue = s.hushQueue := rfl
@[simp] theorem State.reportReach_hushHead (s : State) (a : Fin 4) (g : Bool) :
    (s.reportReach a g).hushHead = s.hushHead := rfl
@[simp] theorem State.reportReach_mem (s : State) (a : Fin 4) (g : Bool) : (s.reportReach a g).mem = s.mem := rfl
@[simp] theorem State.reportReach_free (s : State) (a : Fin 4) (g : Bool) : (s.reportReach a g).free = s.free := rfl
@[simp] theorem State.reportReach_cursor (s : State) (a : Fin 4) (g : Bool) :
    (s.reportReach a g).cursor = s.cursor := rfl
@[simp] theorem State.reportReach_power (s : State) (a : Fin 4) (g : Bool) :
    (s.reportReach a g).power = s.power := rfl
@[simp] theorem State.reportReach_rate (s : State) (a : Fin 4) (g : Bool) : (s.reportReach a g).rate = s.rate := rfl
@[simp] theorem State.reportReach_echoed (s : State) (a : Fin 4) (g : Bool) :
    (s.reportReach a g).echoed = s.echoed := rfl
@[simp] theorem State.reportReach_unechoed (s : State) (a : Fin 4) (g : Bool) :
    (s.reportReach a g).unechoed = s.unechoed := rfl
@[simp] theorem State.reportReach_ring (s : State) (a : Fin 4) (g : Bool) : (s.reportReach a g).ring = s.ring := rfl
@[simp] theorem State.reportReach_slots (s : State) (a : Fin 4) (g : Bool) :
    (s.reportReach a g).slots = s.slots := rfl
@[simp] theorem State.reportReach_serial (s : State) (a : Fin 4) (g : Bool) :
    (s.reportReach a g).serial = s.serial := rfl
@[simp] theorem State.reportReach_tableCursor (s : State) (a : Fin 4) (g : Bool) :
    (s.reportReach a g).tableCursor = s.tableCursor := rfl
@[simp] theorem State.reportReach_response (s : State) (a : Fin 4) (g : Bool) :
    (s.reportReach a g).response = s.response := rfl
@[simp] theorem State.reportReach_fetching (s : State) (a : Fin 4) (g : Bool) :
    (s.reportReach a g).fetching = s.fetching := rfl
@[simp] theorem State.reportReach_masks (s : State) (a : Fin 4) (g : Bool) :
    (s.reportReach a g).masks = s.masks := rfl
@[simp] theorem State.reportReach_modes (s : State) (a : Fin 4) (g : Bool) :
    (s.reportReach a g).modes = s.modes := rfl
@[simp] theorem State.reportReach_latches (s : State) (a : Fin 4) (g : Bool) :
    (s.reportReach a g).latches = s.latches := rfl
@[simp] theorem State.reportReach_stretch (s : State) (a : Fin 4) (g : Bool) :
    (s.reportReach a g).stretch = s.stretch := rfl
@[simp] theorem State.reportReach_alternation (s : State) (a : Fin 4) (g : Bool) :
    (s.reportReach a g).alternation = s.alternation := rfl
@[simp] theorem State.reportReach_burst (s : State) (a : Fin 4) (g : Bool) :
    (s.reportReach a g).burst = s.burst := rfl
@[simp] theorem State.reportReach_burstRec (s : State) (a : Fin 4) (g : Bool) :
    (s.reportReach a g).burstRec = s.burstRec := rfl
@[simp] theorem State.reportReach_tally (s : State) (a : Fin 4) (g : Bool) :
    (s.reportReach a g).tally = s.tally := rfl
@[simp] theorem State.reportReach_stats (s : State) (a : Fin 4) (g : Bool) :
    (s.reportReach a g).stats = s.stats := rfl
@[simp] theorem State.reportReach_unstated (s : State) (a : Fin 4) (g : Bool) :
    (s.reportReach a g).unstated = s.unstated := rfl
@[simp] theorem State.reportReach_cfg (s : State) (a : Fin 4) (g : Bool) : (s.reportReach a g).cfg = s.cfg := rfl
@[simp] theorem State.reportReach_own (s : State) (a : Fin 4) (g : Bool) : (s.reportReach a g).own = s.own := rfl
@[simp] theorem State.reportReach_ownIndex (s : State) (a : Fin 4) (g : Bool) :
    (s.reportReach a g).ownIndex = s.ownIndex := rfl
@[simp] theorem State.reportReach_nowMs (s : State) (a : Fin 4) (g : Bool) :
    (s.reportReach a g).nowMs = s.nowMs := rfl

/-! ### clearStatuses -/

@[simp] theorem State.clearStatuses_now (s : State) (w : BitVec 12) : (s.clearStatuses w).now = s.now := rfl
@[simp] theorem State.clearStatuses_pending (s : State) (w : BitVec 12) :
    (s.clearStatuses w).pending = s.pending := rfl
@[simp] theorem State.clearStatuses_station (s : State) (w : BitVec 12) :
    (s.clearStatuses w).station = s.station := rfl
@[simp] theorem State.clearStatuses_loader (s : State) (w : BitVec 12) : (s.clearStatuses w).loader = s.loader := rfl
@[simp] theorem State.clearStatuses_record (s : State) (w : BitVec 12) : (s.clearStatuses w).record = s.record := rfl
@[simp] theorem State.clearStatuses_rx (s : State) (w : BitVec 12) : (s.clearStatuses w).rx = s.rx := rfl
@[simp] theorem State.clearStatuses_tx (s : State) (w : BitVec 12) : (s.clearStatuses w).tx = s.tx := rfl
@[simp] theorem State.clearStatuses_rftx (s : State) (w : BitVec 12) : (s.clearStatuses w).rftx = s.rftx := rfl
@[simp] theorem State.clearStatuses_drive (s : State) (w : BitVec 12) : (s.clearStatuses w).drive = s.drive := rfl
@[simp] theorem State.clearStatuses_jitter (s : State) (w : BitVec 12) : (s.clearStatuses w).jitter = s.jitter := rfl
@[simp] theorem State.clearStatuses_table (s : State) (w : BitVec 12) : (s.clearStatuses w).table = s.table := rfl
@[simp] theorem State.clearStatuses_ranks (s : State) (w : BitVec 12) : (s.clearStatuses w).ranks = s.ranks := rfl
@[simp] theorem State.clearStatuses_beacon (s : State) (w : BitVec 12) : (s.clearStatuses w).beacon = s.beacon := rfl
@[simp] theorem State.clearStatuses_beaconSerial (s : State) (w : BitVec 12) :
    (s.clearStatuses w).beaconSerial = s.beaconSerial := rfl
@[simp] theorem State.clearStatuses_seen (s : State) (w : BitVec 12) : (s.clearStatuses w).seen = s.seen := rfl
@[simp] theorem State.clearStatuses_hold (s : State) (w : BitVec 12) : (s.clearStatuses w).hold = s.hold := rfl
@[simp] theorem State.clearStatuses_hushQueue (s : State) (w : BitVec 12) :
    (s.clearStatuses w).hushQueue = s.hushQueue := rfl
@[simp] theorem State.clearStatuses_hushHead (s : State) (w : BitVec 12) :
    (s.clearStatuses w).hushHead = s.hushHead := rfl
@[simp] theorem State.clearStatuses_mem (s : State) (w : BitVec 12) : (s.clearStatuses w).mem = s.mem := rfl
@[simp] theorem State.clearStatuses_free (s : State) (w : BitVec 12) : (s.clearStatuses w).free = s.free := rfl
@[simp] theorem State.clearStatuses_cursor (s : State) (w : BitVec 12) : (s.clearStatuses w).cursor = s.cursor := rfl
@[simp] theorem State.clearStatuses_power (s : State) (w : BitVec 12) : (s.clearStatuses w).power = s.power := rfl
@[simp] theorem State.clearStatuses_rate (s : State) (w : BitVec 12) : (s.clearStatuses w).rate = s.rate := rfl
@[simp] theorem State.clearStatuses_echoed (s : State) (w : BitVec 12) : (s.clearStatuses w).echoed = s.echoed := rfl
@[simp] theorem State.clearStatuses_unechoed (s : State) (w : BitVec 12) :
    (s.clearStatuses w).unechoed = s.unechoed := rfl
@[simp] theorem State.clearStatuses_ring (s : State) (w : BitVec 12) : (s.clearStatuses w).ring = s.ring := rfl
@[simp] theorem State.clearStatuses_slots (s : State) (w : BitVec 12) : (s.clearStatuses w).slots = s.slots := rfl
@[simp] theorem State.clearStatuses_serial (s : State) (w : BitVec 12) : (s.clearStatuses w).serial = s.serial := rfl
@[simp] theorem State.clearStatuses_tableCursor (s : State) (w : BitVec 12) :
    (s.clearStatuses w).tableCursor = s.tableCursor := rfl
@[simp] theorem State.clearStatuses_response (s : State) (w : BitVec 12) :
    (s.clearStatuses w).response = s.response := rfl
@[simp] theorem State.clearStatuses_fetching (s : State) (w : BitVec 12) :
    (s.clearStatuses w).fetching = s.fetching := rfl
@[simp] theorem State.clearStatuses_masks (s : State) (w : BitVec 12) : (s.clearStatuses w).masks = s.masks := rfl
@[simp] theorem State.clearStatuses_modes (s : State) (w : BitVec 12) : (s.clearStatuses w).modes = s.modes := rfl
@[simp] theorem State.clearStatuses_latches (s : State) (w : BitVec 12) :
    (s.clearStatuses w).latches = s.latches := rfl
@[simp] theorem State.clearStatuses_stretch (s : State) (w : BitVec 12) :
    (s.clearStatuses w).stretch = s.stretch := rfl
@[simp] theorem State.clearStatuses_alternation (s : State) (w : BitVec 12) :
    (s.clearStatuses w).alternation = s.alternation := rfl
@[simp] theorem State.clearStatuses_burst (s : State) (w : BitVec 12) : (s.clearStatuses w).burst = s.burst := rfl
@[simp] theorem State.clearStatuses_burstRec (s : State) (w : BitVec 12) :
    (s.clearStatuses w).burstRec = s.burstRec := rfl
@[simp] theorem State.clearStatuses_tally (s : State) (w : BitVec 12) : (s.clearStatuses w).tally = s.tally := rfl
@[simp] theorem State.clearStatuses_stats (s : State) (w : BitVec 12) : (s.clearStatuses w).stats = s.stats := rfl
@[simp] theorem State.clearStatuses_unstated (s : State) (w : BitVec 12) :
    (s.clearStatuses w).unstated = s.unstated := rfl
@[simp] theorem State.clearStatuses_cfg (s : State) (w : BitVec 12) : (s.clearStatuses w).cfg = s.cfg := rfl
@[simp] theorem State.clearStatuses_own (s : State) (w : BitVec 12) : (s.clearStatuses w).own = s.own := rfl
@[simp] theorem State.clearStatuses_ownIndex (s : State) (w : BitVec 12) :
    (s.clearStatuses w).ownIndex = s.ownIndex := rfl
@[simp] theorem State.clearStatuses_nowMs (s : State) (w : BitVec 12) : (s.clearStatuses w).nowMs = s.nowMs := rfl

/-! ### writeEvents -/

@[simp] theorem State.writeEvents_now (s : State) (m : BitVec 12) (d : BitVec 8) (l : BitVec 12) :
    (s.writeEvents m d l).now = s.now := rfl
@[simp] theorem State.writeEvents_pending (s : State) (m : BitVec 12) (d : BitVec 8) (l : BitVec 12) :
    (s.writeEvents m d l).pending = s.pending := rfl
@[simp] theorem State.writeEvents_station (s : State) (m : BitVec 12) (d : BitVec 8) (l : BitVec 12) :
    (s.writeEvents m d l).station = s.station := rfl
@[simp] theorem State.writeEvents_loader (s : State) (m : BitVec 12) (d : BitVec 8) (l : BitVec 12) :
    (s.writeEvents m d l).loader = s.loader := rfl
@[simp] theorem State.writeEvents_record (s : State) (m : BitVec 12) (d : BitVec 8) (l : BitVec 12) :
    (s.writeEvents m d l).record = s.record := rfl
@[simp] theorem State.writeEvents_rx (s : State) (m : BitVec 12) (d : BitVec 8) (l : BitVec 12) :
    (s.writeEvents m d l).rx = s.rx := rfl
@[simp] theorem State.writeEvents_tx (s : State) (m : BitVec 12) (d : BitVec 8) (l : BitVec 12) :
    (s.writeEvents m d l).tx = s.tx := rfl
@[simp] theorem State.writeEvents_rftx (s : State) (m : BitVec 12) (d : BitVec 8) (l : BitVec 12) :
    (s.writeEvents m d l).rftx = s.rftx := rfl
@[simp] theorem State.writeEvents_drive (s : State) (m : BitVec 12) (d : BitVec 8) (l : BitVec 12) :
    (s.writeEvents m d l).drive = s.drive := rfl
@[simp] theorem State.writeEvents_jitter (s : State) (m : BitVec 12) (d : BitVec 8) (l : BitVec 12) :
    (s.writeEvents m d l).jitter = s.jitter := rfl
@[simp] theorem State.writeEvents_table (s : State) (m : BitVec 12) (d : BitVec 8) (l : BitVec 12) :
    (s.writeEvents m d l).table = s.table := rfl
@[simp] theorem State.writeEvents_ranks (s : State) (m : BitVec 12) (d : BitVec 8) (l : BitVec 12) :
    (s.writeEvents m d l).ranks = s.ranks := rfl
@[simp] theorem State.writeEvents_beacon (s : State) (m : BitVec 12) (d : BitVec 8) (l : BitVec 12) :
    (s.writeEvents m d l).beacon = s.beacon := rfl
@[simp] theorem State.writeEvents_beaconSerial (s : State) (m : BitVec 12) (d : BitVec 8) (l : BitVec 12) :
    (s.writeEvents m d l).beaconSerial = s.beaconSerial := rfl
@[simp] theorem State.writeEvents_seen (s : State) (m : BitVec 12) (d : BitVec 8) (l : BitVec 12) :
    (s.writeEvents m d l).seen = s.seen := rfl
@[simp] theorem State.writeEvents_hold (s : State) (m : BitVec 12) (d : BitVec 8) (l : BitVec 12) :
    (s.writeEvents m d l).hold = s.hold := rfl
@[simp] theorem State.writeEvents_hushQueue (s : State) (m : BitVec 12) (d : BitVec 8) (l : BitVec 12) :
    (s.writeEvents m d l).hushQueue = s.hushQueue := rfl
@[simp] theorem State.writeEvents_hushHead (s : State) (m : BitVec 12) (d : BitVec 8) (l : BitVec 12) :
    (s.writeEvents m d l).hushHead = s.hushHead := rfl
@[simp] theorem State.writeEvents_mem (s : State) (m : BitVec 12) (d : BitVec 8) (l : BitVec 12) :
    (s.writeEvents m d l).mem = s.mem := rfl
@[simp] theorem State.writeEvents_free (s : State) (m : BitVec 12) (d : BitVec 8) (l : BitVec 12) :
    (s.writeEvents m d l).free = s.free := rfl
@[simp] theorem State.writeEvents_cursor (s : State) (m : BitVec 12) (d : BitVec 8) (l : BitVec 12) :
    (s.writeEvents m d l).cursor = s.cursor := rfl
@[simp] theorem State.writeEvents_power (s : State) (m : BitVec 12) (d : BitVec 8) (l : BitVec 12) :
    (s.writeEvents m d l).power = s.power := rfl
@[simp] theorem State.writeEvents_rate (s : State) (m : BitVec 12) (d : BitVec 8) (l : BitVec 12) :
    (s.writeEvents m d l).rate = s.rate := rfl
@[simp] theorem State.writeEvents_echoed (s : State) (m : BitVec 12) (d : BitVec 8) (l : BitVec 12) :
    (s.writeEvents m d l).echoed = s.echoed := rfl
@[simp] theorem State.writeEvents_unechoed (s : State) (m : BitVec 12) (d : BitVec 8) (l : BitVec 12) :
    (s.writeEvents m d l).unechoed = s.unechoed := rfl
@[simp] theorem State.writeEvents_ring (s : State) (m : BitVec 12) (d : BitVec 8) (l : BitVec 12) :
    (s.writeEvents m d l).ring = s.ring := rfl
@[simp] theorem State.writeEvents_slots (s : State) (m : BitVec 12) (d : BitVec 8) (l : BitVec 12) :
    (s.writeEvents m d l).slots = s.slots := rfl
@[simp] theorem State.writeEvents_serial (s : State) (m : BitVec 12) (d : BitVec 8) (l : BitVec 12) :
    (s.writeEvents m d l).serial = s.serial := rfl
@[simp] theorem State.writeEvents_tableCursor (s : State) (m : BitVec 12) (d : BitVec 8) (l : BitVec 12) :
    (s.writeEvents m d l).tableCursor = s.tableCursor := rfl
@[simp] theorem State.writeEvents_response (s : State) (m : BitVec 12) (d : BitVec 8) (l : BitVec 12) :
    (s.writeEvents m d l).response = s.response := rfl
@[simp] theorem State.writeEvents_fetching (s : State) (m : BitVec 12) (d : BitVec 8) (l : BitVec 12) :
    (s.writeEvents m d l).fetching = s.fetching := rfl
@[simp] theorem State.writeEvents_masks (s : State) (m : BitVec 12) (d : BitVec 8) (l : BitVec 12) :
    (s.writeEvents m d l).masks = m := rfl
@[simp] theorem State.writeEvents_modes (s : State) (m : BitVec 12) (d : BitVec 8) (l : BitVec 12) :
    (s.writeEvents m d l).modes = d := rfl
@[simp] theorem State.writeEvents_latches (s : State) (m : BitVec 12) (d : BitVec 8) (l : BitVec 12) :
    (s.writeEvents m d l).latches = l := rfl
@[simp] theorem State.writeEvents_stretch (s : State) (m : BitVec 12) (d : BitVec 8) (l : BitVec 12) :
    (s.writeEvents m d l).stretch = s.stretch := rfl
@[simp] theorem State.writeEvents_alternation (s : State) (m : BitVec 12) (d : BitVec 8) (l : BitVec 12) :
    (s.writeEvents m d l).alternation = s.alternation := rfl
@[simp] theorem State.writeEvents_burst (s : State) (m : BitVec 12) (d : BitVec 8) (l : BitVec 12) :
    (s.writeEvents m d l).burst = s.burst := rfl
@[simp] theorem State.writeEvents_burstRec (s : State) (m : BitVec 12) (d : BitVec 8) (l : BitVec 12) :
    (s.writeEvents m d l).burstRec = s.burstRec := rfl
@[simp] theorem State.writeEvents_tally (s : State) (m : BitVec 12) (d : BitVec 8) (l : BitVec 12) :
    (s.writeEvents m d l).tally = s.tally := rfl
@[simp] theorem State.writeEvents_stats (s : State) (m : BitVec 12) (d : BitVec 8) (l : BitVec 12) :
    (s.writeEvents m d l).stats = s.stats := rfl
@[simp] theorem State.writeEvents_unstated (s : State) (m : BitVec 12) (d : BitVec 8) (l : BitVec 12) :
    (s.writeEvents m d l).unstated = s.unstated := rfl
@[simp] theorem State.writeEvents_cfg (s : State) (m : BitVec 12) (d : BitVec 8) (l : BitVec 12) :
    (s.writeEvents m d l).cfg = s.cfg := rfl
@[simp] theorem State.writeEvents_own (s : State) (m : BitVec 12) (d : BitVec 8) (l : BitVec 12) :
    (s.writeEvents m d l).own = s.own := rfl
@[simp] theorem State.writeEvents_ownIndex (s : State) (m : BitVec 12) (d : BitVec 8) (l : BitVec 12) :
    (s.writeEvents m d l).ownIndex = s.ownIndex := rfl
@[simp] theorem State.writeEvents_nowMs (s : State) (m : BitVec 12) (d : BitVec 8) (l : BitVec 12) :
    (s.writeEvents m d l).nowMs = s.nowMs := rfl

/-! ### updateSeen -/

@[simp] theorem State.updateSeen_now (s : State) (k : Ident) (f : Seen → Seen) : (s.updateSeen k f).now = s.now := rfl
@[simp] theorem State.updateSeen_pending (s : State) (k : Ident) (f : Seen → Seen) :
    (s.updateSeen k f).pending = s.pending := rfl
@[simp] theorem State.updateSeen_station (s : State) (k : Ident) (f : Seen → Seen) :
    (s.updateSeen k f).station = s.station := rfl
@[simp] theorem State.updateSeen_loader (s : State) (k : Ident) (f : Seen → Seen) :
    (s.updateSeen k f).loader = s.loader := rfl
@[simp] theorem State.updateSeen_record (s : State) (k : Ident) (f : Seen → Seen) :
    (s.updateSeen k f).record = s.record := rfl
@[simp] theorem State.updateSeen_rx (s : State) (k : Ident) (f : Seen → Seen) : (s.updateSeen k f).rx = s.rx := rfl
@[simp] theorem State.updateSeen_tx (s : State) (k : Ident) (f : Seen → Seen) : (s.updateSeen k f).tx = s.tx := rfl
@[simp] theorem State.updateSeen_rftx (s : State) (k : Ident) (f : Seen → Seen) :
    (s.updateSeen k f).rftx = s.rftx := rfl
@[simp] theorem State.updateSeen_drive (s : State) (k : Ident) (f : Seen → Seen) :
    (s.updateSeen k f).drive = s.drive := rfl
@[simp] theorem State.updateSeen_jitter (s : State) (k : Ident) (f : Seen → Seen) :
    (s.updateSeen k f).jitter = s.jitter := rfl
@[simp] theorem State.updateSeen_table (s : State) (k : Ident) (f : Seen → Seen) :
    (s.updateSeen k f).table = s.table := rfl
@[simp] theorem State.updateSeen_ranks (s : State) (k : Ident) (f : Seen → Seen) :
    (s.updateSeen k f).ranks = s.ranks := rfl
@[simp] theorem State.updateSeen_beacon (s : State) (k : Ident) (f : Seen → Seen) :
    (s.updateSeen k f).beacon = s.beacon := rfl
@[simp] theorem State.updateSeen_beaconSerial (s : State) (k : Ident) (f : Seen → Seen) :
    (s.updateSeen k f).beaconSerial = s.beaconSerial := rfl
@[simp] theorem State.updateSeen_seen (s : State) (k : Ident) (f : Seen → Seen) :
    (s.updateSeen k f).seen = s.seen.map fun e => if e.ident = k then f e else e := rfl
@[simp] theorem State.updateSeen_hold (s : State) (k : Ident) (f : Seen → Seen) :
    (s.updateSeen k f).hold = s.hold := rfl
@[simp] theorem State.updateSeen_hushQueue (s : State) (k : Ident) (f : Seen → Seen) :
    (s.updateSeen k f).hushQueue = s.hushQueue := rfl
@[simp] theorem State.updateSeen_hushHead (s : State) (k : Ident) (f : Seen → Seen) :
    (s.updateSeen k f).hushHead = s.hushHead := rfl
@[simp] theorem State.updateSeen_mem (s : State) (k : Ident) (f : Seen → Seen) : (s.updateSeen k f).mem = s.mem := rfl
@[simp] theorem State.updateSeen_free (s : State) (k : Ident) (f : Seen → Seen) :
    (s.updateSeen k f).free = s.free := rfl
@[simp] theorem State.updateSeen_cursor (s : State) (k : Ident) (f : Seen → Seen) :
    (s.updateSeen k f).cursor = s.cursor := rfl
@[simp] theorem State.updateSeen_power (s : State) (k : Ident) (f : Seen → Seen) :
    (s.updateSeen k f).power = s.power := rfl
@[simp] theorem State.updateSeen_rate (s : State) (k : Ident) (f : Seen → Seen) :
    (s.updateSeen k f).rate = s.rate := rfl
@[simp] theorem State.updateSeen_echoed (s : State) (k : Ident) (f : Seen → Seen) :
    (s.updateSeen k f).echoed = s.echoed := rfl
@[simp] theorem State.updateSeen_unechoed (s : State) (k : Ident) (f : Seen → Seen) :
    (s.updateSeen k f).unechoed = s.unechoed := rfl
@[simp] theorem State.updateSeen_ring (s : State) (k : Ident) (f : Seen → Seen) :
    (s.updateSeen k f).ring = s.ring := rfl
@[simp] theorem State.updateSeen_slots (s : State) (k : Ident) (f : Seen → Seen) :
    (s.updateSeen k f).slots = s.slots := rfl
@[simp] theorem State.updateSeen_serial (s : State) (k : Ident) (f : Seen → Seen) :
    (s.updateSeen k f).serial = s.serial := rfl
@[simp] theorem State.updateSeen_tableCursor (s : State) (k : Ident) (f : Seen → Seen) :
    (s.updateSeen k f).tableCursor = s.tableCursor := rfl
@[simp] theorem State.updateSeen_response (s : State) (k : Ident) (f : Seen → Seen) :
    (s.updateSeen k f).response = s.response := rfl
@[simp] theorem State.updateSeen_fetching (s : State) (k : Ident) (f : Seen → Seen) :
    (s.updateSeen k f).fetching = s.fetching := rfl
@[simp] theorem State.updateSeen_masks (s : State) (k : Ident) (f : Seen → Seen) :
    (s.updateSeen k f).masks = s.masks := rfl
@[simp] theorem State.updateSeen_modes (s : State) (k : Ident) (f : Seen → Seen) :
    (s.updateSeen k f).modes = s.modes := rfl
@[simp] theorem State.updateSeen_latches (s : State) (k : Ident) (f : Seen → Seen) :
    (s.updateSeen k f).latches = s.latches := rfl
@[simp] theorem State.updateSeen_statuses (s : State) (k : Ident) (f : Seen → Seen) :
    (s.updateSeen k f).statuses = s.statuses := rfl
@[simp] theorem State.updateSeen_stretch (s : State) (k : Ident) (f : Seen → Seen) :
    (s.updateSeen k f).stretch = s.stretch := rfl
@[simp] theorem State.updateSeen_alternation (s : State) (k : Ident) (f : Seen → Seen) :
    (s.updateSeen k f).alternation = s.alternation := rfl
@[simp] theorem State.updateSeen_burst (s : State) (k : Ident) (f : Seen → Seen) :
    (s.updateSeen k f).burst = s.burst := rfl
@[simp] theorem State.updateSeen_burstRec (s : State) (k : Ident) (f : Seen → Seen) :
    (s.updateSeen k f).burstRec = s.burstRec := rfl
@[simp] theorem State.updateSeen_tally (s : State) (k : Ident) (f : Seen → Seen) :
    (s.updateSeen k f).tally = s.tally := rfl
@[simp] theorem State.updateSeen_stats (s : State) (k : Ident) (f : Seen → Seen) :
    (s.updateSeen k f).stats = s.stats := rfl
@[simp] theorem State.updateSeen_unstated (s : State) (k : Ident) (f : Seen → Seen) :
    (s.updateSeen k f).unstated = s.unstated := rfl
@[simp] theorem State.updateSeen_cfg (s : State) (k : Ident) (f : Seen → Seen) : (s.updateSeen k f).cfg = s.cfg := rfl
@[simp] theorem State.updateSeen_own (s : State) (k : Ident) (f : Seen → Seen) : (s.updateSeen k f).own = s.own := rfl
@[simp] theorem State.updateSeen_ownIndex (s : State) (k : Ident) (f : Seen → Seen) :
    (s.updateSeen k f).ownIndex = s.ownIndex := rfl
@[simp] theorem State.updateSeen_nowMs (s : State) (k : Ident) (f : Seen → Seen) :
    (s.updateSeen k f).nowMs = s.nowMs := rfl

/-! ### insertSeen -/

@[simp] theorem State.insertSeen_now (s : State) (e : Seen) : (s.insertSeen e).now = s.now := rfl
@[simp] theorem State.insertSeen_pending (s : State) (e : Seen) : (s.insertSeen e).pending = s.pending := rfl
@[simp] theorem State.insertSeen_station (s : State) (e : Seen) : (s.insertSeen e).station = s.station := rfl
@[simp] theorem State.insertSeen_loader (s : State) (e : Seen) : (s.insertSeen e).loader = s.loader := rfl
@[simp] theorem State.insertSeen_record (s : State) (e : Seen) : (s.insertSeen e).record = s.record := rfl
@[simp] theorem State.insertSeen_rx (s : State) (e : Seen) : (s.insertSeen e).rx = s.rx := rfl
@[simp] theorem State.insertSeen_tx (s : State) (e : Seen) : (s.insertSeen e).tx = s.tx := rfl
@[simp] theorem State.insertSeen_rftx (s : State) (e : Seen) : (s.insertSeen e).rftx = s.rftx := rfl
@[simp] theorem State.insertSeen_drive (s : State) (e : Seen) : (s.insertSeen e).drive = s.drive := rfl
@[simp] theorem State.insertSeen_jitter (s : State) (e : Seen) : (s.insertSeen e).jitter = s.jitter := rfl
@[simp] theorem State.insertSeen_table (s : State) (e : Seen) : (s.insertSeen e).table = s.table := rfl
@[simp] theorem State.insertSeen_ranks (s : State) (e : Seen) : (s.insertSeen e).ranks = s.ranks := rfl
@[simp] theorem State.insertSeen_beacon (s : State) (e : Seen) : (s.insertSeen e).beacon = s.beacon := rfl
@[simp] theorem State.insertSeen_beaconSerial (s : State) (e : Seen) :
    (s.insertSeen e).beaconSerial = s.beaconSerial := rfl
@[simp] theorem State.insertSeen_hold (s : State) (e : Seen) : (s.insertSeen e).hold = s.hold := rfl
@[simp] theorem State.insertSeen_hushQueue (s : State) (e : Seen) : (s.insertSeen e).hushQueue = s.hushQueue := rfl
@[simp] theorem State.insertSeen_hushHead (s : State) (e : Seen) : (s.insertSeen e).hushHead = s.hushHead := rfl
@[simp] theorem State.insertSeen_mem (s : State) (e : Seen) : (s.insertSeen e).mem = s.mem := rfl
@[simp] theorem State.insertSeen_free (s : State) (e : Seen) : (s.insertSeen e).free = s.free := rfl
@[simp] theorem State.insertSeen_cursor (s : State) (e : Seen) : (s.insertSeen e).cursor = s.cursor := rfl
@[simp] theorem State.insertSeen_power (s : State) (e : Seen) : (s.insertSeen e).power = s.power := rfl
@[simp] theorem State.insertSeen_rate (s : State) (e : Seen) : (s.insertSeen e).rate = s.rate := rfl
@[simp] theorem State.insertSeen_echoed (s : State) (e : Seen) : (s.insertSeen e).echoed = s.echoed := rfl
@[simp] theorem State.insertSeen_unechoed (s : State) (e : Seen) : (s.insertSeen e).unechoed = s.unechoed := rfl
@[simp] theorem State.insertSeen_ring (s : State) (e : Seen) : (s.insertSeen e).ring = s.ring := rfl
@[simp] theorem State.insertSeen_slots (s : State) (e : Seen) : (s.insertSeen e).slots = s.slots := rfl
@[simp] theorem State.insertSeen_serial (s : State) (e : Seen) : (s.insertSeen e).serial = s.serial := rfl
@[simp] theorem State.insertSeen_tableCursor (s : State) (e : Seen) :
    (s.insertSeen e).tableCursor = s.tableCursor := rfl
@[simp] theorem State.insertSeen_response (s : State) (e : Seen) : (s.insertSeen e).response = s.response := rfl
@[simp] theorem State.insertSeen_fetching (s : State) (e : Seen) : (s.insertSeen e).fetching = s.fetching := rfl
@[simp] theorem State.insertSeen_masks (s : State) (e : Seen) : (s.insertSeen e).masks = s.masks := rfl
@[simp] theorem State.insertSeen_modes (s : State) (e : Seen) : (s.insertSeen e).modes = s.modes := rfl
@[simp] theorem State.insertSeen_latches (s : State) (e : Seen) : (s.insertSeen e).latches = s.latches := rfl
@[simp] theorem State.insertSeen_statuses (s : State) (e : Seen) : (s.insertSeen e).statuses = s.statuses := rfl
@[simp] theorem State.insertSeen_stretch (s : State) (e : Seen) : (s.insertSeen e).stretch = s.stretch := rfl
@[simp] theorem State.insertSeen_alternation (s : State) (e : Seen) :
    (s.insertSeen e).alternation = s.alternation := rfl
@[simp] theorem State.insertSeen_burst (s : State) (e : Seen) : (s.insertSeen e).burst = s.burst := rfl
@[simp] theorem State.insertSeen_burstRec (s : State) (e : Seen) : (s.insertSeen e).burstRec = s.burstRec := rfl
@[simp] theorem State.insertSeen_tally (s : State) (e : Seen) : (s.insertSeen e).tally = s.tally := rfl
@[simp] theorem State.insertSeen_stats (s : State) (e : Seen) : (s.insertSeen e).stats = s.stats := rfl
@[simp] theorem State.insertSeen_unstated (s : State) (e : Seen) : (s.insertSeen e).unstated = s.unstated := rfl
@[simp] theorem State.insertSeen_cfg (s : State) (e : Seen) : (s.insertSeen e).cfg = s.cfg := rfl
@[simp] theorem State.insertSeen_own (s : State) (e : Seen) : (s.insertSeen e).own = s.own := rfl
@[simp] theorem State.insertSeen_ownIndex (s : State) (e : Seen) : (s.insertSeen e).ownIndex = s.ownIndex := rfl
@[simp] theorem State.insertSeen_nowMs (s : State) (e : Seen) : (s.insertSeen e).nowMs = s.nowMs := rfl

/-! ### transact -/

@[simp] theorem State.transact_pending (s : State) (t e : Time) (b : List LampEdge) :
    (s.transact t e b).pending = s.pending ++ transactionCommands t e (bytesOfBits (lampClocked b).1) := rfl
@[simp] theorem State.transact_now (s : State) (t e : Time) (b : List LampEdge) : (s.transact t e b).now = s.now := rfl
@[simp] theorem State.transact_station (s : State) (t e : Time) (b : List LampEdge) :
    (s.transact t e b).station = s.station := rfl
@[simp] theorem State.transact_loader (s : State) (t e : Time) (b : List LampEdge) :
    (s.transact t e b).loader = s.loader := rfl
@[simp] theorem State.transact_record (s : State) (t e : Time) (b : List LampEdge) :
    (s.transact t e b).record = s.record := rfl
@[simp] theorem State.transact_rx (s : State) (t e : Time) (b : List LampEdge) : (s.transact t e b).rx = s.rx := rfl
@[simp] theorem State.transact_tx (s : State) (t e : Time) (b : List LampEdge) : (s.transact t e b).tx = s.tx := rfl
@[simp] theorem State.transact_rftx (s : State) (t e : Time) (b : List LampEdge) : (s.transact t e b).rftx = s.rftx := rfl
@[simp] theorem State.transact_drive (s : State) (t e : Time) (b : List LampEdge) :
    (s.transact t e b).drive = s.drive := rfl
@[simp] theorem State.transact_jitter (s : State) (t e : Time) (b : List LampEdge) :
    (s.transact t e b).jitter = s.jitter := rfl
@[simp] theorem State.transact_table (s : State) (t e : Time) (b : List LampEdge) :
    (s.transact t e b).table = s.table := rfl
@[simp] theorem State.transact_ranks (s : State) (t e : Time) (b : List LampEdge) :
    (s.transact t e b).ranks = s.ranks := rfl
@[simp] theorem State.transact_beacon (s : State) (t e : Time) (b : List LampEdge) :
    (s.transact t e b).beacon = s.beacon := rfl
@[simp] theorem State.transact_beaconSerial (s : State) (t e : Time) (b : List LampEdge) :
    (s.transact t e b).beaconSerial = s.beaconSerial := rfl
@[simp] theorem State.transact_seen (s : State) (t e : Time) (b : List LampEdge) : (s.transact t e b).seen = s.seen := rfl
@[simp] theorem State.transact_hold (s : State) (t e : Time) (b : List LampEdge) : (s.transact t e b).hold = s.hold := rfl
@[simp] theorem State.transact_hushQueue (s : State) (t e : Time) (b : List LampEdge) :
    (s.transact t e b).hushQueue = s.hushQueue := rfl
@[simp] theorem State.transact_hushHead (s : State) (t e : Time) (b : List LampEdge) :
    (s.transact t e b).hushHead = s.hushHead := rfl
@[simp] theorem State.transact_mem (s : State) (t e : Time) (b : List LampEdge) : (s.transact t e b).mem = s.mem := rfl
@[simp] theorem State.transact_free (s : State) (t e : Time) (b : List LampEdge) : (s.transact t e b).free = s.free := rfl
@[simp] theorem State.transact_cursor (s : State) (t e : Time) (b : List LampEdge) :
    (s.transact t e b).cursor = s.cursor := rfl
@[simp] theorem State.transact_power (s : State) (t e : Time) (b : List LampEdge) :
    (s.transact t e b).power = s.power := rfl
@[simp] theorem State.transact_rate (s : State) (t e : Time) (b : List LampEdge) : (s.transact t e b).rate = s.rate := rfl
@[simp] theorem State.transact_echoed (s : State) (t e : Time) (b : List LampEdge) :
    (s.transact t e b).echoed = s.echoed := rfl
@[simp] theorem State.transact_unechoed (s : State) (t e : Time) (b : List LampEdge) :
    (s.transact t e b).unechoed = s.unechoed := rfl
@[simp] theorem State.transact_ring (s : State) (t e : Time) (b : List LampEdge) : (s.transact t e b).ring = s.ring := rfl
@[simp] theorem State.transact_slots (s : State) (t e : Time) (b : List LampEdge) :
    (s.transact t e b).slots = s.slots := rfl
@[simp] theorem State.transact_serial (s : State) (t e : Time) (b : List LampEdge) :
    (s.transact t e b).serial = s.serial := rfl
@[simp] theorem State.transact_tableCursor (s : State) (t e : Time) (b : List LampEdge) :
    (s.transact t e b).tableCursor = s.tableCursor := rfl
@[simp] theorem State.transact_response (s : State) (t e : Time) (b : List LampEdge) :
    (s.transact t e b).response = s.response := rfl
@[simp] theorem State.transact_fetching (s : State) (t e : Time) (b : List LampEdge) :
    (s.transact t e b).fetching = s.fetching := rfl
@[simp] theorem State.transact_masks (s : State) (t e : Time) (b : List LampEdge) :
    (s.transact t e b).masks = s.masks := rfl
@[simp] theorem State.transact_modes (s : State) (t e : Time) (b : List LampEdge) :
    (s.transact t e b).modes = s.modes := rfl
@[simp] theorem State.transact_latches (s : State) (t e : Time) (b : List LampEdge) :
    (s.transact t e b).latches = s.latches := rfl
@[simp] theorem State.transact_statuses (s : State) (t e : Time) (b : List LampEdge) :
    (s.transact t e b).statuses = s.statuses := rfl
@[simp] theorem State.transact_stretch (s : State) (t e : Time) (b : List LampEdge) :
    (s.transact t e b).stretch = s.stretch := rfl
@[simp] theorem State.transact_alternation (s : State) (t e : Time) (b : List LampEdge) :
    (s.transact t e b).alternation = s.alternation := rfl
@[simp] theorem State.transact_burst (s : State) (t e : Time) (b : List LampEdge) :
    (s.transact t e b).burst = s.burst := rfl
@[simp] theorem State.transact_burstRec (s : State) (t e : Time) (b : List LampEdge) :
    (s.transact t e b).burstRec = s.burstRec := rfl
@[simp] theorem State.transact_tally (s : State) (t e : Time) (b : List LampEdge) :
    (s.transact t e b).tally = s.tally := rfl
@[simp] theorem State.transact_stats (s : State) (t e : Time) (b : List LampEdge) :
    (s.transact t e b).stats = s.stats := rfl
@[simp] theorem State.transact_unstated (s : State) (t e : Time) (b : List LampEdge) :
    (s.transact t e b).unstated = s.unstated := rfl
@[simp] theorem State.transact_cfg (s : State) (t e : Time) (b : List LampEdge) : (s.transact t e b).cfg = s.cfg := rfl
@[simp] theorem State.transact_own (s : State) (t e : Time) (b : List LampEdge) : (s.transact t e b).own = s.own := rfl
@[simp] theorem State.transact_ownIndex (s : State) (t e : Time) (b : List LampEdge) :
    (s.transact t e b).ownIndex = s.ownIndex := rfl
@[simp] theorem State.transact_nowMs (s : State) (t e : Time) (b : List LampEdge) :
    (s.transact t e b).nowMs = s.nowMs := rfl

/-! ### memoryTransact -/

@[simp] theorem State.memoryTransact_pending (s : State) (t : Time) (b : List (Option Bool)) :
    (s.memoryTransact t b).pending = s.pending ++ (s.memoryCommand t b).toList := rfl
@[simp] theorem State.memoryTransact_now (s : State) (t : Time) (b : List (Option Bool)) :
    (s.memoryTransact t b).now = s.now := rfl
@[simp] theorem State.memoryTransact_station (s : State) (t : Time) (b : List (Option Bool)) :
    (s.memoryTransact t b).station = s.station := rfl
@[simp] theorem State.memoryTransact_loader (s : State) (t : Time) (b : List (Option Bool)) :
    (s.memoryTransact t b).loader = s.loader := rfl
@[simp] theorem State.memoryTransact_record (s : State) (t : Time) (b : List (Option Bool)) :
    (s.memoryTransact t b).record = s.record := rfl
@[simp] theorem State.memoryTransact_rx (s : State) (t : Time) (b : List (Option Bool)) :
    (s.memoryTransact t b).rx = s.rx := rfl
@[simp] theorem State.memoryTransact_tx (s : State) (t : Time) (b : List (Option Bool)) :
    (s.memoryTransact t b).tx = s.tx := rfl
@[simp] theorem State.memoryTransact_rftx (s : State) (t : Time) (b : List (Option Bool)) :
    (s.memoryTransact t b).rftx = s.rftx := rfl
@[simp] theorem State.memoryTransact_drive (s : State) (t : Time) (b : List (Option Bool)) :
    (s.memoryTransact t b).drive = s.drive := rfl
@[simp] theorem State.memoryTransact_jitter (s : State) (t : Time) (b : List (Option Bool)) :
    (s.memoryTransact t b).jitter = s.jitter := rfl
@[simp] theorem State.memoryTransact_table (s : State) (t : Time) (b : List (Option Bool)) :
    (s.memoryTransact t b).table = s.table := rfl
@[simp] theorem State.memoryTransact_ranks (s : State) (t : Time) (b : List (Option Bool)) :
    (s.memoryTransact t b).ranks = s.ranks := rfl
@[simp] theorem State.memoryTransact_beacon (s : State) (t : Time) (b : List (Option Bool)) :
    (s.memoryTransact t b).beacon = s.beacon := rfl
@[simp] theorem State.memoryTransact_beaconSerial (s : State) (t : Time) (b : List (Option Bool)) :
    (s.memoryTransact t b).beaconSerial = s.beaconSerial := rfl
@[simp] theorem State.memoryTransact_seen (s : State) (t : Time) (b : List (Option Bool)) :
    (s.memoryTransact t b).seen = s.seen := rfl
@[simp] theorem State.memoryTransact_hold (s : State) (t : Time) (b : List (Option Bool)) :
    (s.memoryTransact t b).hold = s.hold := rfl
@[simp] theorem State.memoryTransact_hushQueue (s : State) (t : Time) (b : List (Option Bool)) :
    (s.memoryTransact t b).hushQueue = s.hushQueue := rfl
@[simp] theorem State.memoryTransact_hushHead (s : State) (t : Time) (b : List (Option Bool)) :
    (s.memoryTransact t b).hushHead = s.hushHead := rfl
@[simp] theorem State.memoryTransact_mem (s : State) (t : Time) (b : List (Option Bool)) :
    (s.memoryTransact t b).mem = s.mem := rfl
@[simp] theorem State.memoryTransact_free (s : State) (t : Time) (b : List (Option Bool)) :
    (s.memoryTransact t b).free = s.free := rfl
@[simp] theorem State.memoryTransact_cursor (s : State) (t : Time) (b : List (Option Bool)) :
    (s.memoryTransact t b).cursor = s.cursor := rfl
@[simp] theorem State.memoryTransact_power (s : State) (t : Time) (b : List (Option Bool)) :
    (s.memoryTransact t b).power = s.power := rfl
@[simp] theorem State.memoryTransact_rate (s : State) (t : Time) (b : List (Option Bool)) :
    (s.memoryTransact t b).rate = s.rate := rfl
@[simp] theorem State.memoryTransact_echoed (s : State) (t : Time) (b : List (Option Bool)) :
    (s.memoryTransact t b).echoed = s.echoed := rfl
@[simp] theorem State.memoryTransact_unechoed (s : State) (t : Time) (b : List (Option Bool)) :
    (s.memoryTransact t b).unechoed = s.unechoed := rfl
@[simp] theorem State.memoryTransact_ring (s : State) (t : Time) (b : List (Option Bool)) :
    (s.memoryTransact t b).ring = s.ring := rfl
@[simp] theorem State.memoryTransact_slots (s : State) (t : Time) (b : List (Option Bool)) :
    (s.memoryTransact t b).slots = s.slots := rfl
@[simp] theorem State.memoryTransact_serial (s : State) (t : Time) (b : List (Option Bool)) :
    (s.memoryTransact t b).serial = s.serial := rfl
@[simp] theorem State.memoryTransact_tableCursor (s : State) (t : Time) (b : List (Option Bool)) :
    (s.memoryTransact t b).tableCursor = s.tableCursor := rfl
@[simp] theorem State.memoryTransact_response (s : State) (t : Time) (b : List (Option Bool)) :
    (s.memoryTransact t b).response = s.response := rfl
@[simp] theorem State.memoryTransact_fetching (s : State) (t : Time) (b : List (Option Bool)) :
    (s.memoryTransact t b).fetching = s.fetching := rfl
@[simp] theorem State.memoryTransact_masks (s : State) (t : Time) (b : List (Option Bool)) :
    (s.memoryTransact t b).masks = s.masks := rfl
@[simp] theorem State.memoryTransact_modes (s : State) (t : Time) (b : List (Option Bool)) :
    (s.memoryTransact t b).modes = s.modes := rfl
@[simp] theorem State.memoryTransact_latches (s : State) (t : Time) (b : List (Option Bool)) :
    (s.memoryTransact t b).latches = s.latches := rfl
@[simp] theorem State.memoryTransact_statuses (s : State) (t : Time) (b : List (Option Bool)) :
    (s.memoryTransact t b).statuses = s.statuses := rfl
@[simp] theorem State.memoryTransact_stretch (s : State) (t : Time) (b : List (Option Bool)) :
    (s.memoryTransact t b).stretch = s.stretch := rfl
@[simp] theorem State.memoryTransact_alternation (s : State) (t : Time) (b : List (Option Bool)) :
    (s.memoryTransact t b).alternation = s.alternation := rfl
@[simp] theorem State.memoryTransact_burst (s : State) (t : Time) (b : List (Option Bool)) :
    (s.memoryTransact t b).burst = s.burst := rfl
@[simp] theorem State.memoryTransact_burstRec (s : State) (t : Time) (b : List (Option Bool)) :
    (s.memoryTransact t b).burstRec = s.burstRec := rfl
@[simp] theorem State.memoryTransact_tally (s : State) (t : Time) (b : List (Option Bool)) :
    (s.memoryTransact t b).tally = s.tally := rfl
@[simp] theorem State.memoryTransact_stats (s : State) (t : Time) (b : List (Option Bool)) :
    (s.memoryTransact t b).stats = s.stats := rfl
@[simp] theorem State.memoryTransact_unstated (s : State) (t : Time) (b : List (Option Bool)) :
    (s.memoryTransact t b).unstated = s.unstated := rfl
@[simp] theorem State.memoryTransact_cfg (s : State) (t : Time) (b : List (Option Bool)) :
    (s.memoryTransact t b).cfg = s.cfg := rfl
@[simp] theorem State.memoryTransact_own (s : State) (t : Time) (b : List (Option Bool)) :
    (s.memoryTransact t b).own = s.own := rfl
@[simp] theorem State.memoryTransact_ownIndex (s : State) (t : Time) (b : List (Option Bool)) :
    (s.memoryTransact t b).ownIndex = s.ownIndex := rfl
@[simp] theorem State.memoryTransact_nowMs (s : State) (t : Time) (b : List (Option Bool)) :
    (s.memoryTransact t b).nowMs = s.nowMs := rfl

end Sys2Proof.Machine
end

