-- ==== Sys2Proof/Laws/Air.lean ====
section
/-! SUPPORT. What a frame's level readings, its fields and its check say, how bits stand in bytes, and that a header and
a payload are read as they were sent. -/

namespace Sys2Proof.Machine

/-! ### Level readings (R10, R11) -/

/-- Where the run of readings below sensitivity has reached `r`: 8 − r more of them at the head, or 8 in a row further
on, lose the frame. -/
theorem foldl_belowRun (levels : List Int) : ∀ r ≤ 8, (levels.foldl belowRun r = 8 ↔
    (8 - r ≤ levels.length ∧ ∀ k < 8 - r, levels.getD k 0 < 0)
      ∨ ∃ i, i + 8 ≤ levels.length ∧ ∀ k < 8, levels.getD (i + k) 0 < 0) := by
  induction levels with
  | nil =>
    intro r hr
    simp only [List.foldl_nil, List.length_nil, List.getD_nil]
    constructor
    · rintro rfl
      exact .inl ⟨by omega, fun k hk => by omega⟩
    · rintro (⟨h, -⟩ | ⟨i, h, -⟩) <;> omega
  | cons l ls ih =>
    intro r hr
    rw [List.foldl_cons]
    by_cases h8 : r = 8
    · subst h8
      rw [show belowRun 8 l = 8 from rfl, ih 8 le_rfl]
      exact ⟨fun _ => .inl ⟨by omega, fun k hk => by omega⟩, fun _ => .inl ⟨by omega, fun k hk => by omega⟩⟩
    · by_cases hl : l < 0
      · rw [show belowRun r l = r + 1 by simp [belowRun, h8, hl], ih (r + 1) (by omega)]
        constructor
        · rintro (⟨h, a⟩ | ⟨i, h, a⟩)
          · refine .inl ⟨by simp only [List.length_cons]; omega, fun k hk => ?_⟩
            cases k with
            | zero => simpa using hl
            | succ k => simpa using a k (by omega)
          · refine .inr ⟨i + 1, by simp only [List.length_cons]; omega, fun k hk => ?_⟩
            rw [show i + 1 + k = (i + k) + 1 by omega, List.getD_cons_succ]
            exact a k hk
        · rintro (⟨h, a⟩ | ⟨i, h, a⟩)
          · exact .inl ⟨by simp only [List.length_cons] at h; omega, fun k hk => by simpa using a (k + 1) (by omega)⟩
          · cases i with
            | zero =>
              exact .inl ⟨by simp only [List.length_cons] at h; omega, fun k hk => by
                have := a (k + 1) (by omega)
                rw [Nat.zero_add, List.getD_cons_succ] at this
                exact this⟩
            | succ i =>
              refine .inr ⟨i, by simp only [List.length_cons] at h; omega, fun k hk => ?_⟩
              have := a k hk
              rw [show i + 1 + k = (i + k) + 1 by omega, List.getD_cons_succ] at this
              exact this
      · rw [show belowRun r l = 0 by simp [belowRun, h8, hl], ih 0 (by omega)]
        constructor
        · rintro (⟨h, a⟩ | ⟨i, h, a⟩)
          · refine .inr ⟨1, by simp only [List.length_cons]; omega, fun k hk => ?_⟩
            rw [Nat.add_comm, List.getD_cons_succ]
            exact a k (by omega)
          · refine .inr ⟨i + 1, by simp only [List.length_cons]; omega, fun k hk => ?_⟩
            rw [show i + 1 + k = (i + k) + 1 by omega, List.getD_cons_succ]
            exact a k hk
        · rintro (⟨h, a⟩ | ⟨i, h, a⟩)
          · exact absurd (a 0 (by omega)) (by simpa using hl)
          · cases i with
            | zero => exact absurd (a 0 (by omega)) (by simpa using hl)
            | succ i =>
              refine .inr ⟨i, by simp only [List.length_cons] at h; omega, fun k hk => ?_⟩
              have := a k hk
              rw [show i + 1 + k = (i + k) + 1 by omega, List.getD_cons_succ] at this
              exact this

/-- A frame is lost exactly where eight readings in a row are below sensitivity (R10). -/
theorem lostLevel_iff (levels : List Int) :
    lostLevel levels = true ↔ ∃ i, i + 8 ≤ levels.length ∧ ∀ k < 8, levels.getD (i + k) 0 < 0 := by
  rw [lostLevel, decide_eq_true_iff, foldl_belowRun levels 0 (by omega)]
  constructor
  · rintro (⟨h, a⟩ | h)
    · exact ⟨0, by omega, fun k hk => by rw [Nat.zero_add]; exact a k (by omega)⟩
    · exact h
  · exact .inr

/-- A margin stays in 0..63, whatever the readings (R11). -/
theorem marginOf_le (levels : List Int) : marginOf levels ≤ 63 := Nat.min_le_left ..

/-! ### Fields and check (R1, R6) -/

@[simp] theorem msbBits_length {n : Nat} (x : BitVec n) : (msbBits x).length = n := by simp [msbBits]

/-- A field's bits, most-significant first (R1). -/
theorem msbBits_bit {n : Nat} (x : BitVec n) {k : Nat} (hk : k < n) : (msbBits x)[k]? = some (x.getMsbD k) := by
  simp [msbBits, hk]

@[simp] theorem payloadBits_length (p : List Byte) : (payloadBits p).length = 8 * p.length := by
  induction p with
  | nil => rfl
  | cons b p ih => simp only [payloadBits, List.flatMap_cons, List.length_append, msbBits_length] at *; simp; omega

/-- The check register takes one bit after another (R6). -/
theorem frameCheck_append (bits : List Bool) (x : Bool) : frameCheck (bits ++ [x]) = crcStep (frameCheck bits) x := by
  simp [frameCheck]

/-! ### Received fields (R1, R3 to R5, R10) -/

theorem natOfBits_append (bits : List Bool) (b : Bool) : natOfBits (bits ++ [b]) = 2 * natOfBits bits + b.toNat := by
  simp [natOfBits]

/-- The bits of a number spelled first bit highest. -/
theorem natOfBits_testBit (bits : List Bool) : ∀ i, (natOfBits bits).testBit i = bits.reverse.getD i false := by
  induction bits using List.reverseRecOn with
  | nil => intro i; simp [natOfBits]
  | append_singleton bits b ih =>
    intro i
    rw [natOfBits_append, List.reverse_append]
    cases i with
    | zero => cases b <;> simp [Nat.testBit_zero]
    | succ i =>
      rw [Nat.testBit_succ, show (2 * natOfBits bits + b.toNat) / 2 = natOfBits bits by cases b <;> simp; omega, ih i]
      simp

/-- A field read from its own bits is the field (R1). -/
theorem readField_msbBits {w : Nat} (x : BitVec w) (rest : List Bool) : readField w 0 (msbBits x ++ rest) = x := by
  unfold readField
  rw [List.drop_zero, List.take_left' (msbBits_length x)]
  refine BitVec.eq_of_getLsbD_eq fun i hi => ?_
  rw [BitVec.getLsbD_ofNat, natOfBits_testBit]
  simp only [hi, decide_true, Bool.true_and, List.getD_eq_getElem?_getD]
  rw [List.getElem?_reverse (by simpa using hi), msbBits_length, msbBits_bit x (by omega)]
  simp [BitVec.getMsbD, BitVec.getLsbD, show w - 1 - (w - 1 - i) = i by omega, show w - 1 - i < w by omega]

/-- A field further on is read past the field before it (R1). -/
theorem readField_skip {n : Nat} (w offset : Nat) (x : BitVec n) (rest : List Bool) :
    readField w (n + offset) (msbBits x ++ rest) = readField w offset rest := by
  unfold readField
  rw [List.drop_append, msbBits_length, List.drop_of_length_le (by simp), List.nil_append,
    show n + offset - n = offset by omega]

/-- The same, where the offset is a numeral. -/
theorem readField_past {n : Nat} (w offset : Nat) (x : BitVec n) (rest : List Bool) (h : n ≤ offset) :
    readField w offset (msbBits x ++ rest) = readField w (offset - n) rest := by
  rw [← readField_skip w (offset - n) x rest, Nat.add_sub_cancel' h]

/-- A BEACON header is read as it was sent (R3). -/
theorem readBeacon_beaconBits (h : BeaconHeader) (rest : List Bool) : readBeacon (beaconBits h ++ rest) = h := by
  simp [readBeacon, beaconBits, List.append_assoc, readField_past, readField_msbBits]

/-- A CARRY header is read as it was sent (R4). -/
theorem readCarry_carryBits (h : CarryHeader) (rest : List Bool) : readCarry (carryBits h ++ rest) = h := by
  obtain ⟨d, _⟩ := h
  cases d <;> simp [readCarry, carryBits, List.append_assoc, readField_past, readField_msbBits, disciplineBit]

/-- A HUSH header is read as it was sent (R5). -/
theorem readHush_hushBits (h : HushHeader) (rest : List Bool) : readHush (hushBits h ++ rest) = h := by
  simp [readHush, hushBits, List.append_assoc, readField_past, readField_msbBits]

/-- A SURVEY header is read as it was sent (R5). -/
theorem readSurvey_surveyBits (h : SurveyHeader) (rest : List Bool) : readSurvey (surveyBits h ++ rest) = h := by
  simp [readSurvey, surveyBits, List.append_assoc, readField_past, readField_msbBits]

/-! ### Bits and bytes -/

/-- Eight bits read back from their byte, most-significant first (R161, R182). -/
theorem byteOfBits_getMsbD {bits : List Bool} (h : bits.length = 8) {k : Nat} (hk : k < 8) :
    bits[k]? = some ((byteOfBits bits).getMsbD k) := by
  match bits, h with
  | [a, b, c, d, e, f, g, i], _ =>
    have all : ∀ a b c d e f g i : Bool, ∀ k : Fin 8,
        [a, b, c, d, e, f, g, i][k.1]? = some ((byteOfBits [a, b, c, d, e, f, g, i]).getMsbD k.1) := by decide
    exact all a b c d e f g i ⟨k, hk⟩

@[simp] theorem bytesOfBits_length (bits : List Bool) : (bytesOfBits bits).length = bits.length / 8 := by
  simp [bytesOfBits]

/-- The bits of a string read back from its bytes (R161, R182). -/
theorem bytesOfBits_bit {bits : List Bool} {j k : Nat} (hj : j < bits.length / 8) (hk : k < 8) :
    bits[8 * j + k]? = some (((bytesOfBits bits).getD j 0).getMsbD k) := by
  have hl : ((bits.drop (8 * j)).take 8).length = 8 := by
    simp only [List.length_take, List.length_drop]
    omega
  have := byteOfBits_getMsbD hl hk
  rw [List.getElem?_take_of_lt hk, List.getElem?_drop] at this
  rw [this]
  simp [bytesOfBits, List.getD_eq_getElem?_getD, hj]

/-- A byte's own bits, then more (R1). -/
theorem bytesOfBits_cons (x : Byte) (rest : List Bool) : bytesOfBits (msbBits x ++ rest) = x :: bytesOfBits rest := by
  have first : byteOfBits ((msbBits x ++ rest).take 8) = x := by
    have := readField_msbBits x rest
    rwa [readField, List.drop_zero] at this
  have later (i : Nat) : (msbBits x ++ rest).drop (8 * (i + 1)) = rest.drop (8 * i) := by
    rw [List.drop_append, msbBits_length, List.drop_of_length_le (by simp), List.nil_append,
      show 8 * (i + 1) - 8 = 8 * i by omega]
  unfold bytesOfBits
  rw [List.length_append, msbBits_length, show (8 + rest.length) / 8 = rest.length / 8 + 1 by omega,
    List.range_succ_eq_map, List.map_cons, List.map_map]
  simp only [Nat.mul_zero, List.drop_zero, first, Function.comp_def, Nat.succ_eq_add_one, later]

/-- Bits read as bytes give the payload they were sent for (R1). -/
theorem bytesOfBits_payloadBits (p : List Byte) : bytesOfBits (payloadBits p) = p := by
  induction p with
  | nil => rfl
  | cons x p ih => rw [show payloadBits (x :: p) = msbBits x ++ payloadBits p from rfl, bytesOfBits_cons, ih]

end Sys2Proof.Machine
end

