-- ==== Sys2Proof/Laws/Memory.lean ====
section
/-! SUPPORT. The message store's operations keep its canonical form, and a byte written is the byte read. -/

namespace Sys2Proof.Machine

/-- Every entry of a written store is the written byte or was there before. -/
theorem Memory.mem_write {m : List Host.Cell} {a : Nat} {b : Byte} {c : Host.Cell} (h : c ∈ Memory.write m a b) :
    (c = (a, b) ∧ b ≠ 0) ∨ c ∈ m := by
  induction m with
  | nil =>
    unfold Memory.write at h
    split at h <;> simp_all
  | cons d rest ih =>
    obtain ⟨a', b'⟩ := d
    unfold Memory.write at h
    split at h
    · split at h <;> simp_all
    · split at h
      · split at h
        · simp_all
        · simp_all; tauto
      · simp only [List.mem_cons] at h ⊢
        rcases h with h | h
        · exact Or.inr (Or.inl h)
        · rcases ih h with h | h
          · exact Or.inl h
          · exact Or.inr (Or.inr h)

/-- A write inside the store keeps the canonical form. -/
theorem Memory.write_wf {m : List Host.Cell} {a : Nat} {b : Byte} (h : Memory.wf m) (ha : a < 1536) :
    Memory.wf (Memory.write m a b) := by
  constructor
  · induction m with
    | nil => unfold Memory.write; split <;> simp
    | cons d rest ih =>
      obtain ⟨a', b'⟩ := d
      obtain ⟨hp, hr⟩ := h
      rw [List.pairwise_cons] at hp
      have ht : Memory.wf rest := ⟨hp.2, fun c hc => hr c (List.mem_cons_of_mem _ hc)⟩
      unfold Memory.write
      split
      · rename_i hlt
        split
        · exact List.pairwise_cons.2 hp
        · refine List.pairwise_cons.2 ⟨?_, List.pairwise_cons.2 hp⟩
          intro c hc
          rcases List.mem_cons.1 hc with rfl | hc
          · exact hlt
          · exact lt_trans hlt (hp.1 c hc)
      · split
        · rename_i _ heq
          subst heq
          split
          · exact hp.2
          · exact List.pairwise_cons.2 ⟨fun c hc => hp.1 c hc, hp.2⟩
        · rename_i hnl hne
          refine List.pairwise_cons.2 ⟨?_, ih ht⟩
          intro c hc
          rcases Memory.mem_write hc with ⟨rfl, _⟩ | hc
          · exact lt_of_le_of_ne (not_lt.1 hnl) (fun e => hne e.symm)
          · exact hp.1 c hc
  · intro c hc
    rcases Memory.mem_write hc with ⟨rfl, hb⟩ | hc
    · exact ⟨ha, hb⟩
    · exact h.2 c hc

/-- Nothing is listed below the first address of a sorted store, so such an address reads as 0. -/
theorem Memory.read_below {m : List Host.Cell} {a : Nat} (h : ∀ c ∈ m, a < c.1) : Memory.read m a = 0 := by
  induction m with
  | nil => rfl
  | cons d rest ih =>
    obtain ⟨a', b'⟩ := d
    have h1 : a < a' := h (a', b') (List.mem_cons_self ..)
    unfold Memory.read
    rw [if_neg (by omega)]
    exact ih fun c hc => h c (List.mem_cons_of_mem _ hc)

/-- What a store reads after a write. -/
theorem Memory.read_write {m : List Host.Cell} {a x : Nat} {b : Byte} (h : Memory.wf m) :
    Memory.read (Memory.write m a b) x = if x = a then b else Memory.read m x := by
  induction m with
  | nil =>
    unfold Memory.write
    by_cases hb : b = 0
    · subst hb; simp [Memory.read]
    · rw [if_neg hb]; rfl
  | cons d rest ih =>
    obtain ⟨a', b'⟩ := d
    obtain ⟨hp, hr⟩ := h
    rw [List.pairwise_cons] at hp
    have ht : Memory.wf rest := ⟨hp.2, fun c hc => hr c (List.mem_cons_of_mem _ hc)⟩
    unfold Memory.write
    by_cases h1 : a < a'
    · rw [if_pos h1]
      by_cases hb : b = 0
      · rw [if_pos hb]
        by_cases hx : x = a
        · rw [if_pos hx, hx, hb]
          refine Memory.read_below fun c hc => ?_
          rcases List.mem_cons.1 hc with rfl | hc
          · exact h1
          · exact lt_trans h1 (hp.1 c hc)
        · rw [if_neg hx]
      · rw [if_neg hb, Memory.read]
    · rw [if_neg h1]
      by_cases h2 : a = a'
      · rw [if_pos h2]
        subst h2
        by_cases hb : b = 0
        · rw [if_pos hb]
          by_cases hx : x = a
          · rw [if_pos hx, hx, hb]
            exact Memory.read_below hp.1
          · rw [if_neg hx, Memory.read, if_neg hx]
        · rw [if_neg hb, Memory.read, Memory.read]
          by_cases hx : x = a <;> simp [hx]
      · rw [if_neg h2, Memory.read, Memory.read]
        by_cases hx : x = a'
        · simp [hx, Ne.symm h2]
        · rw [if_neg hx, if_neg hx, ih ht]

/-- Writing several bytes inside the store keeps the canonical form. -/
theorem Memory.writeAll_wf {bs : List Byte} : ∀ {m : List Host.Cell} {a : Nat}, Memory.wf m →
    a + bs.length ≤ 1536 → Memory.wf (Memory.writeAll m a bs) := by
  induction bs with
  | nil => intro m a h _; exact h
  | cons b bs ih =>
    intro m a h ha
    simp only [List.length_cons] at ha
    exact ih (Memory.write_wf h (by omega)) (by omega)

/-- What a store reads after several bytes were written at `a`. -/
theorem Memory.read_writeAll {bs : List Byte} : ∀ {m : List Host.Cell} {a x : Nat}, Memory.wf m →
    a + bs.length ≤ 1536 →
    Memory.read (Memory.writeAll m a bs) x = if a ≤ x then bs.getD (x - a) (Memory.read m x) else Memory.read m x := by
  induction bs with
  | nil => intro m a x _ _; simp [Memory.writeAll]
  | cons b bs ih =>
    intro m a x h ha
    simp only [List.length_cons] at ha
    rw [Memory.writeAll, ih (Memory.write_wf h (by omega)) (by omega), Memory.read_write h]
    by_cases h1 : a + 1 ≤ x
    · have h2 : a ≤ x := by omega
      have h3 : x ≠ a := by omega
      have h4 : x - a = (x - (a + 1)) + 1 := by omega
      rw [if_pos h1, if_pos h2, if_neg h3, h4, List.getD_cons_succ]
    · rw [if_neg h1]
      by_cases h2 : x = a
      · subst h2; simp
      · rw [if_neg h2, if_neg (by omega)]

/-- A block's bytes are 16. -/
@[simp] theorem blockBytes_length (p : List Byte) : (blockBytes p).length = 16 := by simp [blockBytes]

/-- Filling a chain keeps the canonical form. -/
theorem fillChain_wf {chain : List Block} : ∀ {m : List Host.Cell} {p : List Byte}, Memory.wf m →
    Memory.wf (fillChain m chain p) := by
  induction chain with
  | nil => intro m p h; exact h
  | cons b bs ih =>
    intro m p h
    refine ih (Memory.writeAll_wf h ?_)
    have := b.2
    simp only [blockBytes_length]
    omega

/-- A byte of a block outside the chain reads as before the chain was filled. -/
theorem read_fillChain_outside {chain : List Block} : ∀ {m : List Host.Cell} {p : List Byte} {x : Nat},
    Memory.wf m → (∀ b ∈ chain, x / 16 ≠ b.1) → Memory.read (fillChain m chain p) x = Memory.read m x := by
  induction chain with
  | nil => intro m p x _ _; rfl
  | cons b bs ih =>
    intro m p x h hx
    have hb := b.2
    have h1 : 16 * b.1 + (blockBytes p).length ≤ 1536 := by simp only [blockBytes_length]; omega
    rw [fillChain, ih (Memory.writeAll_wf h h1) (fun c hc => hx c (List.mem_cons_of_mem _ hc)),
      Memory.read_writeAll h h1]
    have h2 := hx b (List.mem_cons_self ..)
    split
    · rw [List.getD_eq_default]
      simp only [blockBytes_length]
      omega
    · rfl

/-- What an allocation that is met does: it takes blocks from the head of the free list, fills them, and keeps the
canonical form. -/
theorem State.allocate_some {s t : State} {n : Nat} {p : List Byte} {c : List Block}
    (h : s.allocate n p = some (t, c)) :
    c = s.free.take (blocksFor n) ∧ c.length = blocksFor n
      ∧ t = { s with free := s.free.drop (blocksFor n), mem := fillChain s.mem c p }
      ∧ (Memory.wf s.mem → Memory.wf t.mem) := by
  unfold State.allocate at h
  split at h
  · rename_i hle
    simp only [Option.some.injEq, Prod.mk.injEq] at h
    obtain ⟨rfl, rfl⟩ := h
    exact ⟨rfl, by simp [List.length_take, hle], rfl, fun hw => fillChain_wf hw⟩
  · exact absurd h (by simp)

/-- An allocation is refused exactly when too few blocks are free (R120). -/
theorem State.allocate_none {s : State} {n : Nat} {p : List Byte} :
    s.allocate n p = none ↔ s.free.length < blocksFor n := by
  unfold State.allocate
  split <;> simp_all

end Sys2Proof.Machine
end

