-- ==== Sys2Proof/Laws/Frames.lean ====
section
/-! SUPPORT. For each shared operation one lemma that says every field it leaves as it was. Each is a conjunction
tagged simp, so that a proof about an untouched field never unfolds the operation. -/

namespace Sys2Proof.Machine

/-- An allocation writes the free list and the store alone (R120). -/
theorem State.allocate_frame {s t : State} {n : Nat} {p : List Byte} {c : List Block}
    (h : s.allocate n p = some (t, c)) : t = { s with free := t.free, mem := t.mem } := by
  obtain ⟨_, _, rfl, _⟩ := State.allocate_some h
  rfl

/-- A fold of reachability reports writes the statuses alone. -/
theorem State.foldl_report_frame (o n : Vector Rank 4) : ∀ (l : List (Fin 4)) (s : State),
    l.foldl (fun st a => st.reportRankChange a o[a] n[a]) s
      = { s with statuses := (l.foldl (fun st a => st.reportRankChange a o[a] n[a]) s).statuses } := by
  intro l
  induction l with
  | nil => intro s; rfl
  | cons a l ih =>
    intro s
    rw [List.foldl_cons, ih]
    have h : s.reportRankChange a o[a] n[a] = { s with statuses := (s.reportRankChange a o[a] n[a]).statuses } := by
      unfold State.reportRankChange
      repeat' split
      all_goals rfl
    rw [h]

/-- Completing a slot writes the slots alone (R157). -/
@[simp] theorem State.completeSlot_frame (s : State) (e : Hold) (k : Ending) :
    (s.completeSlot e k).now = s.now ∧ (s.completeSlot e k).pending = s.pending
      ∧ (s.completeSlot e k).station = s.station ∧ (s.completeSlot e k).loader = s.loader
      ∧ (s.completeSlot e k).record = s.record ∧ (s.completeSlot e k).rx = s.rx ∧ (s.completeSlot e k).tx = s.tx
      ∧ (s.completeSlot e k).rftx = s.rftx ∧ (s.completeSlot e k).drive = s.drive
      ∧ (s.completeSlot e k).jitter = s.jitter ∧ (s.completeSlot e k).table = s.table
      ∧ (s.completeSlot e k).ranks = s.ranks ∧ (s.completeSlot e k).beacon = s.beacon
      ∧ (s.completeSlot e k).beaconSerial = s.beaconSerial ∧ (s.completeSlot e k).seen = s.seen
      ∧ (s.completeSlot e k).hold = s.hold ∧ (s.completeSlot e k).hushQueue = s.hushQueue
      ∧ (s.completeSlot e k).hushHead = s.hushHead ∧ (s.completeSlot e k).mem = s.mem
      ∧ (s.completeSlot e k).free = s.free ∧ (s.completeSlot e k).cursor = s.cursor
      ∧ (s.completeSlot e k).power = s.power ∧ (s.completeSlot e k).rate = s.rate
      ∧ (s.completeSlot e k).echoed = s.echoed ∧ (s.completeSlot e k).unechoed = s.unechoed
      ∧ (s.completeSlot e k).ring = s.ring ∧ (s.completeSlot e k).serial = s.serial
      ∧ (s.completeSlot e k).tableCursor = s.tableCursor ∧ (s.completeSlot e k).response = s.response
      ∧ (s.completeSlot e k).fetching = s.fetching ∧ (s.completeSlot e k).masks = s.masks
      ∧ (s.completeSlot e k).modes = s.modes ∧ (s.completeSlot e k).latches = s.latches
      ∧ (s.completeSlot e k).statuses = s.statuses ∧ (s.completeSlot e k).stretch = s.stretch
      ∧ (s.completeSlot e k).alternation = s.alternation ∧ (s.completeSlot e k).burst = s.burst
      ∧ (s.completeSlot e k).burstRec = s.burstRec ∧ (s.completeSlot e k).tally = s.tally
      ∧ (s.completeSlot e k).stats = s.stats ∧ (s.completeSlot e k).unstated = s.unstated := by
  unfold State.completeSlot
  repeat' split
  all_goals simp

/-- An echoed outcome reaches rate control and its event source alone (R136). -/
@[simp] theorem State.echoedOutcome_frame (s : State) :
    s.echoedOutcome.now = s.now ∧ s.echoedOutcome.pending = s.pending ∧ s.echoedOutcome.station = s.station
      ∧ s.echoedOutcome.loader = s.loader ∧ s.echoedOutcome.record = s.record ∧ s.echoedOutcome.rx = s.rx
      ∧ s.echoedOutcome.tx = s.tx ∧ s.echoedOutcome.rftx = s.rftx ∧ s.echoedOutcome.drive = s.drive
      ∧ s.echoedOutcome.jitter = s.jitter ∧ s.echoedOutcome.table = s.table ∧ s.echoedOutcome.ranks = s.ranks
      ∧ s.echoedOutcome.beacon = s.beacon ∧ s.echoedOutcome.beaconSerial = s.beaconSerial
      ∧ s.echoedOutcome.seen = s.seen ∧ s.echoedOutcome.hold = s.hold ∧ s.echoedOutcome.hushQueue = s.hushQueue
      ∧ s.echoedOutcome.hushHead = s.hushHead ∧ s.echoedOutcome.mem = s.mem ∧ s.echoedOutcome.free = s.free
      ∧ s.echoedOutcome.cursor = s.cursor ∧ s.echoedOutcome.power = s.power ∧ s.echoedOutcome.ring = s.ring
      ∧ s.echoedOutcome.slots = s.slots ∧ s.echoedOutcome.serial = s.serial
      ∧ s.echoedOutcome.tableCursor = s.tableCursor ∧ s.echoedOutcome.response = s.response
      ∧ s.echoedOutcome.fetching = s.fetching ∧ s.echoedOutcome.masks = s.masks ∧ s.echoedOutcome.modes = s.modes
      ∧ s.echoedOutcome.latches = s.latches ∧ s.echoedOutcome.stretch = s.stretch
      ∧ s.echoedOutcome.alternation = s.alternation ∧ s.echoedOutcome.burst = s.burst
      ∧ s.echoedOutcome.burstRec = s.burstRec ∧ s.echoedOutcome.tally = s.tally ∧ s.echoedOutcome.stats = s.stats
      ∧ s.echoedOutcome.unstated = s.unstated := by
  unfold State.echoedOutcome
  repeat' split
  all_goals simp

/-- An unechoed outcome reaches rate control and its event source alone (R137). -/
@[simp] theorem State.unechoedOutcome_frame (s : State) :
    s.unechoedOutcome.now = s.now ∧ s.unechoedOutcome.pending = s.pending ∧ s.unechoedOutcome.station = s.station
      ∧ s.unechoedOutcome.loader = s.loader ∧ s.unechoedOutcome.record = s.record ∧ s.unechoedOutcome.rx = s.rx
      ∧ s.unechoedOutcome.tx = s.tx ∧ s.unechoedOutcome.rftx = s.rftx ∧ s.unechoedOutcome.drive = s.drive
      ∧ s.unechoedOutcome.jitter = s.jitter ∧ s.unechoedOutcome.table = s.table ∧ s.unechoedOutcome.ranks = s.ranks
      ∧ s.unechoedOutcome.beacon = s.beacon ∧ s.unechoedOutcome.beaconSerial = s.beaconSerial
      ∧ s.unechoedOutcome.seen = s.seen ∧ s.unechoedOutcome.hold = s.hold
      ∧ s.unechoedOutcome.hushQueue = s.hushQueue ∧ s.unechoedOutcome.hushHead = s.hushHead
      ∧ s.unechoedOutcome.mem = s.mem ∧ s.unechoedOutcome.free = s.free ∧ s.unechoedOutcome.cursor = s.cursor
      ∧ s.unechoedOutcome.power = s.power ∧ s.unechoedOutcome.ring = s.ring ∧ s.unechoedOutcome.slots = s.slots
      ∧ s.unechoedOutcome.serial = s.serial ∧ s.unechoedOutcome.tableCursor = s.tableCursor
      ∧ s.unechoedOutcome.response = s.response ∧ s.unechoedOutcome.fetching = s.fetching
      ∧ s.unechoedOutcome.masks = s.masks ∧ s.unechoedOutcome.modes = s.modes
      ∧ s.unechoedOutcome.latches = s.latches ∧ s.unechoedOutcome.stretch = s.stretch
      ∧ s.unechoedOutcome.alternation = s.alternation ∧ s.unechoedOutcome.burst = s.burst
      ∧ s.unechoedOutcome.burstRec = s.burstRec ∧ s.unechoedOutcome.tally = s.tally
      ∧ s.unechoedOutcome.stats = s.stats ∧ s.unechoedOutcome.unstated = s.unstated := by
  unfold State.unechoedOutcome
  repeat' split
  all_goals simp

/-- What removing a hold entry leaves as it was (R75). -/
@[simp] theorem State.removeHold_frame (s : State) (i : Fin 16) (k : Ending) :
    (s.removeHold i k).now = s.now ∧ (s.removeHold i k).pending = s.pending ∧ (s.removeHold i k).station = s.station
      ∧ (s.removeHold i k).loader = s.loader ∧ (s.removeHold i k).record = s.record ∧ (s.removeHold i k).rx = s.rx
      ∧ (s.removeHold i k).tx = s.tx ∧ (s.removeHold i k).rftx = s.rftx ∧ (s.removeHold i k).drive = s.drive
      ∧ (s.removeHold i k).jitter = s.jitter ∧ (s.removeHold i k).table = s.table
      ∧ (s.removeHold i k).ranks = s.ranks ∧ (s.removeHold i k).beacon = s.beacon
      ∧ (s.removeHold i k).beaconSerial = s.beaconSerial ∧ (s.removeHold i k).hushQueue = s.hushQueue
      ∧ (s.removeHold i k).hushHead = s.hushHead ∧ (s.removeHold i k).mem = s.mem
      ∧ (s.removeHold i k).cursor = s.cursor ∧ (s.removeHold i k).power = s.power ∧ (s.removeHold i k).ring = s.ring
      ∧ (s.removeHold i k).serial = s.serial ∧ (s.removeHold i k).tableCursor = s.tableCursor
      ∧ (s.removeHold i k).response = s.response ∧ (s.removeHold i k).fetching = s.fetching
      ∧ (s.removeHold i k).masks = s.masks ∧ (s.removeHold i k).modes = s.modes
      ∧ (s.removeHold i k).latches = s.latches ∧ (s.removeHold i k).stretch = s.stretch
      ∧ (s.removeHold i k).alternation = s.alternation ∧ (s.removeHold i k).burst = s.burst
      ∧ (s.removeHold i k).burstRec = s.burstRec ∧ (s.removeHold i k).tally = s.tally
      ∧ (s.removeHold i k).unstated = s.unstated := by
  unfold State.removeHold
  repeat' split
  all_goals simp

/-- A reachability transition writes the statuses alone (R48). -/
@[simp] theorem State.reportRankChange_frame (s : State) (a : Fin 4) (o n : Rank) :
    (s.reportRankChange a o n).now = s.now ∧ (s.reportRankChange a o n).pending = s.pending
      ∧ (s.reportRankChange a o n).station = s.station ∧ (s.reportRankChange a o n).loader = s.loader
      ∧ (s.reportRankChange a o n).record = s.record ∧ (s.reportRankChange a o n).rx = s.rx
      ∧ (s.reportRankChange a o n).tx = s.tx ∧ (s.reportRankChange a o n).rftx = s.rftx
      ∧ (s.reportRankChange a o n).drive = s.drive ∧ (s.reportRankChange a o n).jitter = s.jitter
      ∧ (s.reportRankChange a o n).table = s.table ∧ (s.reportRankChange a o n).ranks = s.ranks
      ∧ (s.reportRankChange a o n).beacon = s.beacon ∧ (s.reportRankChange a o n).beaconSerial = s.beaconSerial
      ∧ (s.reportRankChange a o n).seen = s.seen ∧ (s.reportRankChange a o n).hold = s.hold
      ∧ (s.reportRankChange a o n).hushQueue = s.hushQueue ∧ (s.reportRankChange a o n).hushHead = s.hushHead
      ∧ (s.reportRankChange a o n).mem = s.mem ∧ (s.reportRankChange a o n).free = s.free
      ∧ (s.reportRankChange a o n).cursor = s.cursor ∧ (s.reportRankChange a o n).power = s.power
      ∧ (s.reportRankChange a o n).rate = s.rate ∧ (s.reportRankChange a o n).echoed = s.echoed
      ∧ (s.reportRankChange a o n).unechoed = s.unechoed ∧ (s.reportRankChange a o n).ring = s.ring
      ∧ (s.reportRankChange a o n).slots = s.slots ∧ (s.reportRankChange a o n).serial = s.serial
      ∧ (s.reportRankChange a o n).tableCursor = s.tableCursor ∧ (s.reportRankChange a o n).response = s.response
      ∧ (s.reportRankChange a o n).fetching = s.fetching ∧ (s.reportRankChange a o n).masks = s.masks
      ∧ (s.reportRankChange a o n).modes = s.modes ∧ (s.reportRankChange a o n).latches = s.latches
      ∧ (s.reportRankChange a o n).stretch = s.stretch ∧ (s.reportRankChange a o n).alternation = s.alternation
      ∧ (s.reportRankChange a o n).burst = s.burst ∧ (s.reportRankChange a o n).burstRec = s.burstRec
      ∧ (s.reportRankChange a o n).tally = s.tally ∧ (s.reportRankChange a o n).stats = s.stats
      ∧ (s.reportRankChange a o n).unstated = s.unstated := by
  unfold State.reportRankChange
  repeat' split
  all_goals simp

/-- A recompute writes the ranks and the statuses (R45). -/
@[simp] theorem State.recompute_frame (s : State) :
    s.recompute.now = s.now ∧ s.recompute.pending = s.pending ∧ s.recompute.station = s.station
      ∧ s.recompute.loader = s.loader ∧ s.recompute.record = s.record ∧ s.recompute.rx = s.rx
      ∧ s.recompute.tx = s.tx ∧ s.recompute.rftx = s.rftx ∧ s.recompute.drive = s.drive
      ∧ s.recompute.jitter = s.jitter ∧ s.recompute.table = s.table ∧ s.recompute.beacon = s.beacon
      ∧ s.recompute.beaconSerial = s.beaconSerial ∧ s.recompute.seen = s.seen ∧ s.recompute.hold = s.hold
      ∧ s.recompute.hushQueue = s.hushQueue ∧ s.recompute.hushHead = s.hushHead ∧ s.recompute.mem = s.mem
      ∧ s.recompute.free = s.free ∧ s.recompute.cursor = s.cursor ∧ s.recompute.power = s.power
      ∧ s.recompute.rate = s.rate ∧ s.recompute.echoed = s.echoed ∧ s.recompute.unechoed = s.unechoed
      ∧ s.recompute.ring = s.ring ∧ s.recompute.slots = s.slots ∧ s.recompute.serial = s.serial
      ∧ s.recompute.tableCursor = s.tableCursor ∧ s.recompute.response = s.response
      ∧ s.recompute.fetching = s.fetching ∧ s.recompute.masks = s.masks ∧ s.recompute.modes = s.modes
      ∧ s.recompute.latches = s.latches ∧ s.recompute.stretch = s.stretch ∧ s.recompute.alternation = s.alternation
      ∧ s.recompute.burst = s.burst ∧ s.recompute.burstRec = s.burstRec ∧ s.recompute.tally = s.tally
      ∧ s.recompute.stats = s.stats ∧ s.recompute.unstated = s.unstated := by
  unfold State.recompute
  dsimp only
  rw [State.foldl_report_frame]
  simp

/-- Removing a neighbour writes the table and the statuses (R34). -/
@[simp] theorem State.removeNeighbour_frame (s : State) (i : Fin 32) :
    (s.removeNeighbour i).now = s.now ∧ (s.removeNeighbour i).pending = s.pending
      ∧ (s.removeNeighbour i).station = s.station ∧ (s.removeNeighbour i).loader = s.loader
      ∧ (s.removeNeighbour i).record = s.record ∧ (s.removeNeighbour i).rx = s.rx ∧ (s.removeNeighbour i).tx = s.tx
      ∧ (s.removeNeighbour i).rftx = s.rftx ∧ (s.removeNeighbour i).drive = s.drive
      ∧ (s.removeNeighbour i).jitter = s.jitter ∧ (s.removeNeighbour i).ranks = s.ranks
      ∧ (s.removeNeighbour i).beacon = s.beacon ∧ (s.removeNeighbour i).beaconSerial = s.beaconSerial
      ∧ (s.removeNeighbour i).seen = s.seen ∧ (s.removeNeighbour i).hold = s.hold
      ∧ (s.removeNeighbour i).hushQueue = s.hushQueue ∧ (s.removeNeighbour i).hushHead = s.hushHead
      ∧ (s.removeNeighbour i).mem = s.mem ∧ (s.removeNeighbour i).free = s.free
      ∧ (s.removeNeighbour i).cursor = s.cursor ∧ (s.removeNeighbour i).power = s.power
      ∧ (s.removeNeighbour i).rate = s.rate ∧ (s.removeNeighbour i).echoed = s.echoed
      ∧ (s.removeNeighbour i).unechoed = s.unechoed ∧ (s.removeNeighbour i).ring = s.ring
      ∧ (s.removeNeighbour i).slots = s.slots ∧ (s.removeNeighbour i).serial = s.serial
      ∧ (s.removeNeighbour i).tableCursor = s.tableCursor ∧ (s.removeNeighbour i).response = s.response
      ∧ (s.removeNeighbour i).fetching = s.fetching ∧ (s.removeNeighbour i).masks = s.masks
      ∧ (s.removeNeighbour i).modes = s.modes ∧ (s.removeNeighbour i).latches = s.latches
      ∧ (s.removeNeighbour i).stretch = s.stretch ∧ (s.removeNeighbour i).alternation = s.alternation
      ∧ (s.removeNeighbour i).burst = s.burst ∧ (s.removeNeighbour i).burstRec = s.burstRec
      ∧ (s.removeNeighbour i).tally = s.tally ∧ (s.removeNeighbour i).stats = s.stats
      ∧ (s.removeNeighbour i).unstated = s.unstated := by
  unfold State.removeNeighbour
  repeat' split
  all_goals simp

/-- Making a neighbour entry reaches table, ranks and statuses (R26). -/
@[simp] theorem State.seatNeighbour_frame (s : State) (i : Fin 32) (h : BeaconHeader) (m : Nat) :
    (s.seatNeighbour i h m).now = s.now ∧ (s.seatNeighbour i h m).pending = s.pending ∧ (s.seatNeighbour i h m).station = s.station
      ∧ (s.seatNeighbour i h m).loader = s.loader ∧ (s.seatNeighbour i h m).record = s.record ∧ (s.seatNeighbour i h m).rx = s.rx
      ∧ (s.seatNeighbour i h m).tx = s.tx ∧ (s.seatNeighbour i h m).rftx = s.rftx ∧ (s.seatNeighbour i h m).drive = s.drive
      ∧ (s.seatNeighbour i h m).jitter = s.jitter ∧ (s.seatNeighbour i h m).beacon = s.beacon
      ∧ (s.seatNeighbour i h m).beaconSerial = s.beaconSerial ∧ (s.seatNeighbour i h m).seen = s.seen
      ∧ (s.seatNeighbour i h m).hold = s.hold ∧ (s.seatNeighbour i h m).hushQueue = s.hushQueue
      ∧ (s.seatNeighbour i h m).hushHead = s.hushHead ∧ (s.seatNeighbour i h m).mem = s.mem ∧ (s.seatNeighbour i h m).free = s.free
      ∧ (s.seatNeighbour i h m).cursor = s.cursor ∧ (s.seatNeighbour i h m).power = s.power ∧ (s.seatNeighbour i h m).rate = s.rate
      ∧ (s.seatNeighbour i h m).echoed = s.echoed ∧ (s.seatNeighbour i h m).unechoed = s.unechoed ∧ (s.seatNeighbour i h m).ring = s.ring
      ∧ (s.seatNeighbour i h m).slots = s.slots ∧ (s.seatNeighbour i h m).serial = s.serial
      ∧ (s.seatNeighbour i h m).tableCursor = s.tableCursor ∧ (s.seatNeighbour i h m).response = s.response
      ∧ (s.seatNeighbour i h m).fetching = s.fetching ∧ (s.seatNeighbour i h m).masks = s.masks ∧ (s.seatNeighbour i h m).modes = s.modes
      ∧ (s.seatNeighbour i h m).latches = s.latches ∧ (s.seatNeighbour i h m).stretch = s.stretch
      ∧ (s.seatNeighbour i h m).alternation = s.alternation ∧ (s.seatNeighbour i h m).burst = s.burst
      ∧ (s.seatNeighbour i h m).burstRec = s.burstRec ∧ (s.seatNeighbour i h m).tally = s.tally ∧ (s.seatNeighbour i h m).stats = s.stats
      ∧ (s.seatNeighbour i h m).unstated = s.unstated := by
  unfold State.seatNeighbour
  by_cases hc : (s.newNeighbour h m).standing = Standing.up <;> simp [hc]

/-- What a beacon from an unknown sender leaves as it was (R26 to R28). -/
@[simp] theorem State.unknownBeacon_frame (s : State) (h : BeaconHeader) (m : Nat) :
    (s.unknownBeacon h m).now = s.now ∧ (s.unknownBeacon h m).pending = s.pending
      ∧ (s.unknownBeacon h m).station = s.station ∧ (s.unknownBeacon h m).loader = s.loader
      ∧ (s.unknownBeacon h m).record = s.record ∧ (s.unknownBeacon h m).rx = s.rx ∧ (s.unknownBeacon h m).tx = s.tx
      ∧ (s.unknownBeacon h m).rftx = s.rftx ∧ (s.unknownBeacon h m).drive = s.drive
      ∧ (s.unknownBeacon h m).jitter = s.jitter ∧ (s.unknownBeacon h m).beacon = s.beacon
      ∧ (s.unknownBeacon h m).beaconSerial = s.beaconSerial ∧ (s.unknownBeacon h m).seen = s.seen
      ∧ (s.unknownBeacon h m).hold = s.hold ∧ (s.unknownBeacon h m).hushQueue = s.hushQueue
      ∧ (s.unknownBeacon h m).hushHead = s.hushHead ∧ (s.unknownBeacon h m).mem = s.mem
      ∧ (s.unknownBeacon h m).free = s.free ∧ (s.unknownBeacon h m).cursor = s.cursor
      ∧ (s.unknownBeacon h m).power = s.power ∧ (s.unknownBeacon h m).rate = s.rate
      ∧ (s.unknownBeacon h m).echoed = s.echoed ∧ (s.unknownBeacon h m).unechoed = s.unechoed
      ∧ (s.unknownBeacon h m).ring = s.ring ∧ (s.unknownBeacon h m).slots = s.slots
      ∧ (s.unknownBeacon h m).serial = s.serial ∧ (s.unknownBeacon h m).tableCursor = s.tableCursor
      ∧ (s.unknownBeacon h m).response = s.response ∧ (s.unknownBeacon h m).fetching = s.fetching
      ∧ (s.unknownBeacon h m).masks = s.masks ∧ (s.unknownBeacon h m).modes = s.modes
      ∧ (s.unknownBeacon h m).latches = s.latches ∧ (s.unknownBeacon h m).stretch = s.stretch
      ∧ (s.unknownBeacon h m).alternation = s.alternation ∧ (s.unknownBeacon h m).burst = s.burst
      ∧ (s.unknownBeacon h m).burstRec = s.burstRec ∧ (s.unknownBeacon h m).tally = s.tally
      ∧ (s.unknownBeacon h m).unstated = s.unstated := by
  unfold State.unknownBeacon
  repeat' split
  all_goals simp

/-- What a beacon from a known neighbour leaves as it was (R30). -/
@[simp] theorem State.knownBeacon_frame (s : State) (i : Fin 32) (n : Neighbour) (h : BeaconHeader) (m : Nat) :
    (s.knownBeacon i n h m).now = s.now ∧ (s.knownBeacon i n h m).pending = s.pending
      ∧ (s.knownBeacon i n h m).station = s.station ∧ (s.knownBeacon i n h m).loader = s.loader
      ∧ (s.knownBeacon i n h m).record = s.record ∧ (s.knownBeacon i n h m).rx = s.rx
      ∧ (s.knownBeacon i n h m).tx = s.tx ∧ (s.knownBeacon i n h m).rftx = s.rftx
      ∧ (s.knownBeacon i n h m).drive = s.drive ∧ (s.knownBeacon i n h m).jitter = s.jitter
      ∧ (s.knownBeacon i n h m).beacon = s.beacon ∧ (s.knownBeacon i n h m).beaconSerial = s.beaconSerial
      ∧ (s.knownBeacon i n h m).seen = s.seen ∧ (s.knownBeacon i n h m).hold = s.hold
      ∧ (s.knownBeacon i n h m).hushQueue = s.hushQueue ∧ (s.knownBeacon i n h m).hushHead = s.hushHead
      ∧ (s.knownBeacon i n h m).mem = s.mem ∧ (s.knownBeacon i n h m).free = s.free
      ∧ (s.knownBeacon i n h m).cursor = s.cursor ∧ (s.knownBeacon i n h m).power = s.power
      ∧ (s.knownBeacon i n h m).rate = s.rate ∧ (s.knownBeacon i n h m).echoed = s.echoed
      ∧ (s.knownBeacon i n h m).unechoed = s.unechoed ∧ (s.knownBeacon i n h m).ring = s.ring
      ∧ (s.knownBeacon i n h m).slots = s.slots ∧ (s.knownBeacon i n h m).serial = s.serial
      ∧ (s.knownBeacon i n h m).tableCursor = s.tableCursor ∧ (s.knownBeacon i n h m).response = s.response
      ∧ (s.knownBeacon i n h m).fetching = s.fetching ∧ (s.knownBeacon i n h m).masks = s.masks
      ∧ (s.knownBeacon i n h m).modes = s.modes ∧ (s.knownBeacon i n h m).latches = s.latches
      ∧ (s.knownBeacon i n h m).stretch = s.stretch ∧ (s.knownBeacon i n h m).alternation = s.alternation
      ∧ (s.knownBeacon i n h m).burst = s.burst ∧ (s.knownBeacon i n h m).burstRec = s.burstRec
      ∧ (s.knownBeacon i n h m).tally = s.tally ∧ (s.knownBeacon i n h m).stats = s.stats
      ∧ (s.knownBeacon i n h m).unstated = s.unstated := by
  unfold State.knownBeacon
  dsimp only
  repeat' split
  all_goals simp

/-- What a beacon leaves as it was (R21). -/
@[simp] theorem State.takeBeacon_frame (s : State) (h : BeaconHeader) (m : Nat) :
    (s.takeBeacon h m).now = s.now ∧ (s.takeBeacon h m).pending = s.pending ∧ (s.takeBeacon h m).station = s.station
      ∧ (s.takeBeacon h m).loader = s.loader ∧ (s.takeBeacon h m).record = s.record ∧ (s.takeBeacon h m).rx = s.rx
      ∧ (s.takeBeacon h m).tx = s.tx ∧ (s.takeBeacon h m).rftx = s.rftx ∧ (s.takeBeacon h m).drive = s.drive
      ∧ (s.takeBeacon h m).jitter = s.jitter ∧ (s.takeBeacon h m).beacon = s.beacon
      ∧ (s.takeBeacon h m).beaconSerial = s.beaconSerial ∧ (s.takeBeacon h m).seen = s.seen
      ∧ (s.takeBeacon h m).hold = s.hold ∧ (s.takeBeacon h m).hushQueue = s.hushQueue
      ∧ (s.takeBeacon h m).hushHead = s.hushHead ∧ (s.takeBeacon h m).mem = s.mem ∧ (s.takeBeacon h m).free = s.free
      ∧ (s.takeBeacon h m).cursor = s.cursor ∧ (s.takeBeacon h m).power = s.power ∧ (s.takeBeacon h m).rate = s.rate
      ∧ (s.takeBeacon h m).echoed = s.echoed ∧ (s.takeBeacon h m).unechoed = s.unechoed
      ∧ (s.takeBeacon h m).ring = s.ring ∧ (s.takeBeacon h m).slots = s.slots ∧ (s.takeBeacon h m).serial = s.serial
      ∧ (s.takeBeacon h m).tableCursor = s.tableCursor ∧ (s.takeBeacon h m).response = s.response
      ∧ (s.takeBeacon h m).fetching = s.fetching ∧ (s.takeBeacon h m).masks = s.masks
      ∧ (s.takeBeacon h m).modes = s.modes ∧ (s.takeBeacon h m).latches = s.latches
      ∧ (s.takeBeacon h m).stretch = s.stretch ∧ (s.takeBeacon h m).alternation = s.alternation
      ∧ (s.takeBeacon h m).burst = s.burst ∧ (s.takeBeacon h m).burstRec = s.burstRec
      ∧ (s.takeBeacon h m).tally = s.tally ∧ (s.takeBeacon h m).unstated = s.unstated := by
  unfold State.takeBeacon
  repeat' split
  all_goals simp

/-- What a CARRY or HUSH leaves as it was at the table (R35). -/
@[simp] theorem State.takeMargin_frame (s : State) (a : Address) (m : Nat) :
    (s.takeMargin a m).now = s.now ∧ (s.takeMargin a m).pending = s.pending ∧ (s.takeMargin a m).station = s.station
      ∧ (s.takeMargin a m).loader = s.loader ∧ (s.takeMargin a m).record = s.record ∧ (s.takeMargin a m).rx = s.rx
      ∧ (s.takeMargin a m).tx = s.tx ∧ (s.takeMargin a m).rftx = s.rftx ∧ (s.takeMargin a m).drive = s.drive
      ∧ (s.takeMargin a m).jitter = s.jitter ∧ (s.takeMargin a m).beacon = s.beacon
      ∧ (s.takeMargin a m).beaconSerial = s.beaconSerial ∧ (s.takeMargin a m).seen = s.seen
      ∧ (s.takeMargin a m).hold = s.hold ∧ (s.takeMargin a m).hushQueue = s.hushQueue
      ∧ (s.takeMargin a m).hushHead = s.hushHead ∧ (s.takeMargin a m).mem = s.mem ∧ (s.takeMargin a m).free = s.free
      ∧ (s.takeMargin a m).cursor = s.cursor ∧ (s.takeMargin a m).power = s.power ∧ (s.takeMargin a m).rate = s.rate
      ∧ (s.takeMargin a m).echoed = s.echoed ∧ (s.takeMargin a m).unechoed = s.unechoed
      ∧ (s.takeMargin a m).ring = s.ring ∧ (s.takeMargin a m).slots = s.slots ∧ (s.takeMargin a m).serial = s.serial
      ∧ (s.takeMargin a m).tableCursor = s.tableCursor ∧ (s.takeMargin a m).response = s.response
      ∧ (s.takeMargin a m).fetching = s.fetching ∧ (s.takeMargin a m).masks = s.masks
      ∧ (s.takeMargin a m).modes = s.modes ∧ (s.takeMargin a m).latches = s.latches
      ∧ (s.takeMargin a m).stretch = s.stretch ∧ (s.takeMargin a m).alternation = s.alternation
      ∧ (s.takeMargin a m).burst = s.burst ∧ (s.takeMargin a m).burstRec = s.burstRec
      ∧ (s.takeMargin a m).tally = s.tally ∧ (s.takeMargin a m).stats = s.stats
      ∧ (s.takeMargin a m).unstated = s.unstated := by
  unfold State.takeMargin
  repeat' split
  all_goals simp

/-- What a due-timer expiry leaves as it was (R33). -/
@[simp] theorem State.missBeacon_frame (s : State) (i : Fin 32) (n : Neighbour) :
    (s.missBeacon i n).now = s.now ∧ (s.missBeacon i n).pending = s.pending ∧ (s.missBeacon i n).station = s.station
      ∧ (s.missBeacon i n).loader = s.loader ∧ (s.missBeacon i n).record = s.record ∧ (s.missBeacon i n).rx = s.rx
      ∧ (s.missBeacon i n).tx = s.tx ∧ (s.missBeacon i n).rftx = s.rftx ∧ (s.missBeacon i n).drive = s.drive
      ∧ (s.missBeacon i n).jitter = s.jitter ∧ (s.missBeacon i n).beacon = s.beacon
      ∧ (s.missBeacon i n).beaconSerial = s.beaconSerial ∧ (s.missBeacon i n).seen = s.seen
      ∧ (s.missBeacon i n).hold = s.hold ∧ (s.missBeacon i n).hushQueue = s.hushQueue
      ∧ (s.missBeacon i n).hushHead = s.hushHead ∧ (s.missBeacon i n).mem = s.mem ∧ (s.missBeacon i n).free = s.free
      ∧ (s.missBeacon i n).cursor = s.cursor ∧ (s.missBeacon i n).power = s.power ∧ (s.missBeacon i n).rate = s.rate
      ∧ (s.missBeacon i n).echoed = s.echoed ∧ (s.missBeacon i n).unechoed = s.unechoed
      ∧ (s.missBeacon i n).ring = s.ring ∧ (s.missBeacon i n).slots = s.slots ∧ (s.missBeacon i n).serial = s.serial
      ∧ (s.missBeacon i n).tableCursor = s.tableCursor ∧ (s.missBeacon i n).response = s.response
      ∧ (s.missBeacon i n).fetching = s.fetching ∧ (s.missBeacon i n).masks = s.masks
      ∧ (s.missBeacon i n).modes = s.modes ∧ (s.missBeacon i n).latches = s.latches
      ∧ (s.missBeacon i n).stretch = s.stretch ∧ (s.missBeacon i n).alternation = s.alternation
      ∧ (s.missBeacon i n).burst = s.burst ∧ (s.missBeacon i n).burstRec = s.burstRec
      ∧ (s.missBeacon i n).tally = s.tally ∧ (s.missBeacon i n).stats = s.stats
      ∧ (s.missBeacon i n).unstated = s.unstated := by
  unfold State.missBeacon
  dsimp only
  repeat' split
  all_goals simp

/-- A new hold entry writes the hold list alone (R73). -/
@[simp] theorem State.addHold_frame (s : State) (e : Hold) :
    (s.addHold e).now = s.now ∧ (s.addHold e).pending = s.pending ∧ (s.addHold e).station = s.station
      ∧ (s.addHold e).loader = s.loader ∧ (s.addHold e).record = s.record ∧ (s.addHold e).rx = s.rx
      ∧ (s.addHold e).tx = s.tx ∧ (s.addHold e).rftx = s.rftx ∧ (s.addHold e).drive = s.drive
      ∧ (s.addHold e).jitter = s.jitter ∧ (s.addHold e).table = s.table ∧ (s.addHold e).ranks = s.ranks
      ∧ (s.addHold e).beacon = s.beacon ∧ (s.addHold e).beaconSerial = s.beaconSerial ∧ (s.addHold e).seen = s.seen
      ∧ (s.addHold e).hushQueue = s.hushQueue ∧ (s.addHold e).hushHead = s.hushHead ∧ (s.addHold e).mem = s.mem
      ∧ (s.addHold e).free = s.free ∧ (s.addHold e).cursor = s.cursor ∧ (s.addHold e).power = s.power
      ∧ (s.addHold e).rate = s.rate ∧ (s.addHold e).echoed = s.echoed ∧ (s.addHold e).unechoed = s.unechoed
      ∧ (s.addHold e).ring = s.ring ∧ (s.addHold e).slots = s.slots ∧ (s.addHold e).serial = s.serial
      ∧ (s.addHold e).tableCursor = s.tableCursor ∧ (s.addHold e).response = s.response
      ∧ (s.addHold e).fetching = s.fetching ∧ (s.addHold e).masks = s.masks ∧ (s.addHold e).modes = s.modes
      ∧ (s.addHold e).latches = s.latches ∧ (s.addHold e).statuses = s.statuses ∧ (s.addHold e).stretch = s.stretch
      ∧ (s.addHold e).alternation = s.alternation ∧ (s.addHold e).burst = s.burst
      ∧ (s.addHold e).burstRec = s.burstRec ∧ (s.addHold e).tally = s.tally ∧ (s.addHold e).stats = s.stats
      ∧ (s.addHold e).unstated = s.unstated := by
  unfold State.addHold
  repeat' split
  all_goals simp

/-- What holding a first copy leaves as it was (R82). -/
@[simp] theorem State.holdArrival_frame (s : State) (h : CarryHeader) (p : List Byte) :
    (s.holdArrival h p).now = s.now ∧ (s.holdArrival h p).pending = s.pending
      ∧ (s.holdArrival h p).station = s.station ∧ (s.holdArrival h p).loader = s.loader
      ∧ (s.holdArrival h p).record = s.record ∧ (s.holdArrival h p).rx = s.rx ∧ (s.holdArrival h p).tx = s.tx
      ∧ (s.holdArrival h p).rftx = s.rftx ∧ (s.holdArrival h p).drive = s.drive
      ∧ (s.holdArrival h p).table = s.table ∧ (s.holdArrival h p).ranks = s.ranks
      ∧ (s.holdArrival h p).beacon = s.beacon ∧ (s.holdArrival h p).beaconSerial = s.beaconSerial
      ∧ (s.holdArrival h p).seen = s.seen ∧ (s.holdArrival h p).hushQueue = s.hushQueue
      ∧ (s.holdArrival h p).hushHead = s.hushHead ∧ (s.holdArrival h p).cursor = s.cursor
      ∧ (s.holdArrival h p).power = s.power ∧ (s.holdArrival h p).rate = s.rate
      ∧ (s.holdArrival h p).echoed = s.echoed ∧ (s.holdArrival h p).unechoed = s.unechoed
      ∧ (s.holdArrival h p).ring = s.ring ∧ (s.holdArrival h p).slots = s.slots
      ∧ (s.holdArrival h p).serial = s.serial ∧ (s.holdArrival h p).tableCursor = s.tableCursor
      ∧ (s.holdArrival h p).response = s.response ∧ (s.holdArrival h p).fetching = s.fetching
      ∧ (s.holdArrival h p).masks = s.masks ∧ (s.holdArrival h p).modes = s.modes
      ∧ (s.holdArrival h p).latches = s.latches ∧ (s.holdArrival h p).statuses = s.statuses
      ∧ (s.holdArrival h p).stretch = s.stretch ∧ (s.holdArrival h p).alternation = s.alternation
      ∧ (s.holdArrival h p).burst = s.burst ∧ (s.holdArrival h p).burstRec = s.burstRec
      ∧ (s.holdArrival h p).tally = s.tally ∧ (s.holdArrival h p).stats = s.stats
      ∧ (s.holdArrival h p).unstated = s.unstated := by
  unfold State.holdArrival
  repeat' split
  all_goals first
    | simp; done
    | (rename_i h; rw [State.allocate_frame h]; simp)

/-- What the arrival decision leaves as it was (R76). -/
@[simp] theorem State.applyArrival_frame (s : State) (h : CarryHeader) (p : List Byte) (r : Arrival) :
    (s.applyArrival h p r).now = s.now ∧ (s.applyArrival h p r).pending = s.pending
      ∧ (s.applyArrival h p r).station = s.station ∧ (s.applyArrival h p r).loader = s.loader
      ∧ (s.applyArrival h p r).record = s.record ∧ (s.applyArrival h p r).rx = s.rx
      ∧ (s.applyArrival h p r).tx = s.tx ∧ (s.applyArrival h p r).rftx = s.rftx
      ∧ (s.applyArrival h p r).drive = s.drive ∧ (s.applyArrival h p r).table = s.table
      ∧ (s.applyArrival h p r).ranks = s.ranks ∧ (s.applyArrival h p r).beacon = s.beacon
      ∧ (s.applyArrival h p r).beaconSerial = s.beaconSerial ∧ (s.applyArrival h p r).seen = s.seen
      ∧ (s.applyArrival h p r).hushQueue = s.hushQueue ∧ (s.applyArrival h p r).hushHead = s.hushHead
      ∧ (s.applyArrival h p r).cursor = s.cursor ∧ (s.applyArrival h p r).power = s.power
      ∧ (s.applyArrival h p r).rate = s.rate ∧ (s.applyArrival h p r).echoed = s.echoed
      ∧ (s.applyArrival h p r).unechoed = s.unechoed ∧ (s.applyArrival h p r).ring = s.ring
      ∧ (s.applyArrival h p r).slots = s.slots ∧ (s.applyArrival h p r).serial = s.serial
      ∧ (s.applyArrival h p r).tableCursor = s.tableCursor ∧ (s.applyArrival h p r).response = s.response
      ∧ (s.applyArrival h p r).fetching = s.fetching ∧ (s.applyArrival h p r).masks = s.masks
      ∧ (s.applyArrival h p r).modes = s.modes ∧ (s.applyArrival h p r).latches = s.latches
      ∧ (s.applyArrival h p r).statuses = s.statuses ∧ (s.applyArrival h p r).stretch = s.stretch
      ∧ (s.applyArrival h p r).alternation = s.alternation ∧ (s.applyArrival h p r).burst = s.burst
      ∧ (s.applyArrival h p r).burstRec = s.burstRec ∧ (s.applyArrival h p r).tally = s.tally
      ∧ (s.applyArrival h p r).unstated = s.unstated := by
  unfold State.applyArrival
  repeat' split
  all_goals simp

/-- What an offer to the ring leaves as it was (R147). -/
@[simp] theorem State.offerDelivery_frame (s : State) (h : CarryHeader) (p : List Byte) :
    (s.offerDelivery h p).now = s.now ∧ (s.offerDelivery h p).pending = s.pending
      ∧ (s.offerDelivery h p).station = s.station ∧ (s.offerDelivery h p).loader = s.loader
      ∧ (s.offerDelivery h p).record = s.record ∧ (s.offerDelivery h p).rx = s.rx ∧ (s.offerDelivery h p).tx = s.tx
      ∧ (s.offerDelivery h p).rftx = s.rftx ∧ (s.offerDelivery h p).drive = s.drive
      ∧ (s.offerDelivery h p).jitter = s.jitter ∧ (s.offerDelivery h p).table = s.table
      ∧ (s.offerDelivery h p).ranks = s.ranks ∧ (s.offerDelivery h p).beacon = s.beacon
      ∧ (s.offerDelivery h p).beaconSerial = s.beaconSerial ∧ (s.offerDelivery h p).seen = s.seen
      ∧ (s.offerDelivery h p).hold = s.hold ∧ (s.offerDelivery h p).hushQueue = s.hushQueue
      ∧ (s.offerDelivery h p).hushHead = s.hushHead ∧ (s.offerDelivery h p).cursor = s.cursor
      ∧ (s.offerDelivery h p).power = s.power ∧ (s.offerDelivery h p).rate = s.rate
      ∧ (s.offerDelivery h p).echoed = s.echoed ∧ (s.offerDelivery h p).unechoed = s.unechoed
      ∧ (s.offerDelivery h p).slots = s.slots ∧ (s.offerDelivery h p).serial = s.serial
      ∧ (s.offerDelivery h p).tableCursor = s.tableCursor ∧ (s.offerDelivery h p).response = s.response
      ∧ (s.offerDelivery h p).fetching = s.fetching ∧ (s.offerDelivery h p).masks = s.masks
      ∧ (s.offerDelivery h p).modes = s.modes ∧ (s.offerDelivery h p).latches = s.latches
      ∧ (s.offerDelivery h p).statuses = s.statuses ∧ (s.offerDelivery h p).stretch = s.stretch
      ∧ (s.offerDelivery h p).alternation = s.alternation ∧ (s.offerDelivery h p).burst = s.burst
      ∧ (s.offerDelivery h p).burstRec = s.burstRec ∧ (s.offerDelivery h p).tally = s.tally
      ∧ (s.offerDelivery h p).unstated = s.unstated := by
  unfold State.offerDelivery
  repeat' split
  all_goals first
    | simp; done
    | (rename_i h; rw [State.allocate_frame h]; simp)

/-- What an offer to the HUSH queue leaves as it was (R111). -/
@[simp] theorem State.offerHush_frame (s : State) (k : Ident) :
    (s.offerHush k).now = s.now ∧ (s.offerHush k).pending = s.pending ∧ (s.offerHush k).station = s.station
      ∧ (s.offerHush k).loader = s.loader ∧ (s.offerHush k).record = s.record ∧ (s.offerHush k).rx = s.rx
      ∧ (s.offerHush k).tx = s.tx ∧ (s.offerHush k).rftx = s.rftx ∧ (s.offerHush k).drive = s.drive
      ∧ (s.offerHush k).jitter = s.jitter ∧ (s.offerHush k).table = s.table ∧ (s.offerHush k).ranks = s.ranks
      ∧ (s.offerHush k).beacon = s.beacon ∧ (s.offerHush k).beaconSerial = s.beaconSerial
      ∧ (s.offerHush k).seen = s.seen ∧ (s.offerHush k).hold = s.hold ∧ (s.offerHush k).mem = s.mem
      ∧ (s.offerHush k).free = s.free ∧ (s.offerHush k).cursor = s.cursor ∧ (s.offerHush k).power = s.power
      ∧ (s.offerHush k).rate = s.rate ∧ (s.offerHush k).echoed = s.echoed ∧ (s.offerHush k).unechoed = s.unechoed
      ∧ (s.offerHush k).ring = s.ring ∧ (s.offerHush k).slots = s.slots ∧ (s.offerHush k).serial = s.serial
      ∧ (s.offerHush k).tableCursor = s.tableCursor ∧ (s.offerHush k).response = s.response
      ∧ (s.offerHush k).fetching = s.fetching ∧ (s.offerHush k).masks = s.masks ∧ (s.offerHush k).modes = s.modes
      ∧ (s.offerHush k).latches = s.latches ∧ (s.offerHush k).statuses = s.statuses
      ∧ (s.offerHush k).stretch = s.stretch ∧ (s.offerHush k).alternation = s.alternation
      ∧ (s.offerHush k).burst = s.burst ∧ (s.offerHush k).burstRec = s.burstRec ∧ (s.offerHush k).tally = s.tally
      ∧ (s.offerHush k).unstated = s.unstated := by
  unfold State.offerHush
  repeat' split
  all_goals simp

/-- What the anchor responder leaves as it was at a first copy (R107). -/
@[simp] theorem State.anchorFirstCopy_frame (s : State) (h : CarryHeader) (p : List Byte) :
    (s.anchorFirstCopy h p).now = s.now ∧ (s.anchorFirstCopy h p).pending = s.pending
      ∧ (s.anchorFirstCopy h p).station = s.station ∧ (s.anchorFirstCopy h p).loader = s.loader
      ∧ (s.anchorFirstCopy h p).record = s.record ∧ (s.anchorFirstCopy h p).rx = s.rx
      ∧ (s.anchorFirstCopy h p).tx = s.tx ∧ (s.anchorFirstCopy h p).rftx = s.rftx
      ∧ (s.anchorFirstCopy h p).drive = s.drive ∧ (s.anchorFirstCopy h p).jitter = s.jitter
      ∧ (s.anchorFirstCopy h p).table = s.table ∧ (s.anchorFirstCopy h p).ranks = s.ranks
      ∧ (s.anchorFirstCopy h p).beacon = s.beacon ∧ (s.anchorFirstCopy h p).beaconSerial = s.beaconSerial
      ∧ (s.anchorFirstCopy h p).hold = s.hold ∧ (s.anchorFirstCopy h p).cursor = s.cursor
      ∧ (s.anchorFirstCopy h p).power = s.power ∧ (s.anchorFirstCopy h p).rate = s.rate
      ∧ (s.anchorFirstCopy h p).echoed = s.echoed ∧ (s.anchorFirstCopy h p).unechoed = s.unechoed
      ∧ (s.anchorFirstCopy h p).slots = s.slots ∧ (s.anchorFirstCopy h p).serial = s.serial
      ∧ (s.anchorFirstCopy h p).tableCursor = s.tableCursor ∧ (s.anchorFirstCopy h p).response = s.response
      ∧ (s.anchorFirstCopy h p).fetching = s.fetching ∧ (s.anchorFirstCopy h p).masks = s.masks
      ∧ (s.anchorFirstCopy h p).modes = s.modes ∧ (s.anchorFirstCopy h p).latches = s.latches
      ∧ (s.anchorFirstCopy h p).statuses = s.statuses ∧ (s.anchorFirstCopy h p).stretch = s.stretch
      ∧ (s.anchorFirstCopy h p).alternation = s.alternation ∧ (s.anchorFirstCopy h p).burst = s.burst
      ∧ (s.anchorFirstCopy h p).burstRec = s.burstRec ∧ (s.anchorFirstCopy h p).tally = s.tally
      ∧ (s.anchorFirstCopy h p).unstated = s.unstated := by
  unfold State.anchorFirstCopy
  repeat' split
  all_goals simp

/-- What a first copy leaves as it was away from its anchor (R65). -/
@[simp] theorem State.relayFirstCopy_frame (s : State) (h : CarryHeader) (p : List Byte) :
    (s.relayFirstCopy h p).now = s.now ∧ (s.relayFirstCopy h p).pending = s.pending
      ∧ (s.relayFirstCopy h p).station = s.station ∧ (s.relayFirstCopy h p).loader = s.loader
      ∧ (s.relayFirstCopy h p).record = s.record ∧ (s.relayFirstCopy h p).rx = s.rx
      ∧ (s.relayFirstCopy h p).tx = s.tx ∧ (s.relayFirstCopy h p).rftx = s.rftx
      ∧ (s.relayFirstCopy h p).drive = s.drive ∧ (s.relayFirstCopy h p).table = s.table
      ∧ (s.relayFirstCopy h p).ranks = s.ranks ∧ (s.relayFirstCopy h p).beacon = s.beacon
      ∧ (s.relayFirstCopy h p).beaconSerial = s.beaconSerial ∧ (s.relayFirstCopy h p).hushQueue = s.hushQueue
      ∧ (s.relayFirstCopy h p).hushHead = s.hushHead ∧ (s.relayFirstCopy h p).cursor = s.cursor
      ∧ (s.relayFirstCopy h p).power = s.power ∧ (s.relayFirstCopy h p).rate = s.rate
      ∧ (s.relayFirstCopy h p).echoed = s.echoed ∧ (s.relayFirstCopy h p).unechoed = s.unechoed
      ∧ (s.relayFirstCopy h p).slots = s.slots ∧ (s.relayFirstCopy h p).serial = s.serial
      ∧ (s.relayFirstCopy h p).tableCursor = s.tableCursor ∧ (s.relayFirstCopy h p).response = s.response
      ∧ (s.relayFirstCopy h p).fetching = s.fetching ∧ (s.relayFirstCopy h p).masks = s.masks
      ∧ (s.relayFirstCopy h p).modes = s.modes ∧ (s.relayFirstCopy h p).latches = s.latches
      ∧ (s.relayFirstCopy h p).statuses = s.statuses ∧ (s.relayFirstCopy h p).stretch = s.stretch
      ∧ (s.relayFirstCopy h p).alternation = s.alternation ∧ (s.relayFirstCopy h p).burst = s.burst
      ∧ (s.relayFirstCopy h p).burstRec = s.burstRec ∧ (s.relayFirstCopy h p).tally = s.tally
      ∧ (s.relayFirstCopy h p).unstated = s.unstated := by
  unfold State.relayFirstCopy
  dsimp only
  repeat' split
  all_goals simp

/-- What judging a copy leaves as it was (R86, R87, R89). -/
@[simp] theorem State.judgeCopy_frame (s : State) (i : Fin 16) (r : Option Rank) (x : Nat) :
    (s.judgeCopy i r x).now = s.now ∧ (s.judgeCopy i r x).pending = s.pending
      ∧ (s.judgeCopy i r x).station = s.station ∧ (s.judgeCopy i r x).loader = s.loader
      ∧ (s.judgeCopy i r x).record = s.record ∧ (s.judgeCopy i r x).rx = s.rx ∧ (s.judgeCopy i r x).tx = s.tx
      ∧ (s.judgeCopy i r x).rftx = s.rftx ∧ (s.judgeCopy i r x).drive = s.drive
      ∧ (s.judgeCopy i r x).jitter = s.jitter ∧ (s.judgeCopy i r x).table = s.table
      ∧ (s.judgeCopy i r x).ranks = s.ranks ∧ (s.judgeCopy i r x).beacon = s.beacon
      ∧ (s.judgeCopy i r x).beaconSerial = s.beaconSerial ∧ (s.judgeCopy i r x).hushQueue = s.hushQueue
      ∧ (s.judgeCopy i r x).hushHead = s.hushHead ∧ (s.judgeCopy i r x).mem = s.mem
      ∧ (s.judgeCopy i r x).cursor = s.cursor ∧ (s.judgeCopy i r x).power = s.power
      ∧ (s.judgeCopy i r x).ring = s.ring ∧ (s.judgeCopy i r x).serial = s.serial
      ∧ (s.judgeCopy i r x).tableCursor = s.tableCursor ∧ (s.judgeCopy i r x).response = s.response
      ∧ (s.judgeCopy i r x).fetching = s.fetching ∧ (s.judgeCopy i r x).masks = s.masks
      ∧ (s.judgeCopy i r x).modes = s.modes ∧ (s.judgeCopy i r x).latches = s.latches
      ∧ (s.judgeCopy i r x).stretch = s.stretch ∧ (s.judgeCopy i r x).alternation = s.alternation
      ∧ (s.judgeCopy i r x).burst = s.burst ∧ (s.judgeCopy i r x).burstRec = s.burstRec
      ∧ (s.judgeCopy i r x).tally = s.tally ∧ (s.judgeCopy i r x).unstated = s.unstated := by
  unfold State.judgeCopy
  repeat' split
  all_goals simp

/-- What judging a HUSH leaves as it was (R88, R89). -/
@[simp] theorem State.judgeHush_frame (s : State) (i : Fin 16) :
    (s.judgeHush i).now = s.now ∧ (s.judgeHush i).pending = s.pending ∧ (s.judgeHush i).station = s.station
      ∧ (s.judgeHush i).loader = s.loader ∧ (s.judgeHush i).record = s.record ∧ (s.judgeHush i).rx = s.rx
      ∧ (s.judgeHush i).tx = s.tx ∧ (s.judgeHush i).rftx = s.rftx ∧ (s.judgeHush i).drive = s.drive
      ∧ (s.judgeHush i).jitter = s.jitter ∧ (s.judgeHush i).table = s.table ∧ (s.judgeHush i).ranks = s.ranks
      ∧ (s.judgeHush i).beacon = s.beacon ∧ (s.judgeHush i).beaconSerial = s.beaconSerial
      ∧ (s.judgeHush i).hushQueue = s.hushQueue ∧ (s.judgeHush i).hushHead = s.hushHead
      ∧ (s.judgeHush i).mem = s.mem ∧ (s.judgeHush i).cursor = s.cursor ∧ (s.judgeHush i).power = s.power
      ∧ (s.judgeHush i).ring = s.ring ∧ (s.judgeHush i).serial = s.serial
      ∧ (s.judgeHush i).tableCursor = s.tableCursor ∧ (s.judgeHush i).response = s.response
      ∧ (s.judgeHush i).fetching = s.fetching ∧ (s.judgeHush i).masks = s.masks ∧ (s.judgeHush i).modes = s.modes
      ∧ (s.judgeHush i).latches = s.latches ∧ (s.judgeHush i).stretch = s.stretch
      ∧ (s.judgeHush i).alternation = s.alternation ∧ (s.judgeHush i).burst = s.burst
      ∧ (s.judgeHush i).burstRec = s.burstRec ∧ (s.judgeHush i).tally = s.tally
      ∧ (s.judgeHush i).unstated = s.unstated := by
  unfold State.judgeHush
  repeat' split
  all_goals simp

/-- What a copy leaves as it was (R67, R68). -/
@[simp] theorem State.takeCopy_frame (s : State) (e : Seen) (h : CarryHeader) :
    (s.takeCopy e h).now = s.now ∧ (s.takeCopy e h).pending = s.pending ∧ (s.takeCopy e h).station = s.station
      ∧ (s.takeCopy e h).loader = s.loader ∧ (s.takeCopy e h).record = s.record ∧ (s.takeCopy e h).rx = s.rx
      ∧ (s.takeCopy e h).tx = s.tx ∧ (s.takeCopy e h).rftx = s.rftx ∧ (s.takeCopy e h).drive = s.drive
      ∧ (s.takeCopy e h).jitter = s.jitter ∧ (s.takeCopy e h).table = s.table ∧ (s.takeCopy e h).ranks = s.ranks
      ∧ (s.takeCopy e h).beacon = s.beacon ∧ (s.takeCopy e h).beaconSerial = s.beaconSerial
      ∧ (s.takeCopy e h).mem = s.mem ∧ (s.takeCopy e h).cursor = s.cursor ∧ (s.takeCopy e h).power = s.power
      ∧ (s.takeCopy e h).ring = s.ring ∧ (s.takeCopy e h).serial = s.serial
      ∧ (s.takeCopy e h).tableCursor = s.tableCursor ∧ (s.takeCopy e h).response = s.response
      ∧ (s.takeCopy e h).fetching = s.fetching ∧ (s.takeCopy e h).masks = s.masks ∧ (s.takeCopy e h).modes = s.modes
      ∧ (s.takeCopy e h).latches = s.latches ∧ (s.takeCopy e h).stretch = s.stretch
      ∧ (s.takeCopy e h).alternation = s.alternation ∧ (s.takeCopy e h).burst = s.burst
      ∧ (s.takeCopy e h).burstRec = s.burstRec ∧ (s.takeCopy e h).tally = s.tally
      ∧ (s.takeCopy e h).unstated = s.unstated := by
  unfold State.takeCopy
  dsimp only
  repeat' split
  all_goals simp

/-- What a CARRY leaves as it was at the seen list (R65). -/
@[simp] theorem State.takeCarry_frame (s : State) (h : CarryHeader) (p : List Byte) :
    (s.takeCarry h p).now = s.now ∧ (s.takeCarry h p).pending = s.pending ∧ (s.takeCarry h p).station = s.station
      ∧ (s.takeCarry h p).loader = s.loader ∧ (s.takeCarry h p).record = s.record ∧ (s.takeCarry h p).rx = s.rx
      ∧ (s.takeCarry h p).tx = s.tx ∧ (s.takeCarry h p).rftx = s.rftx ∧ (s.takeCarry h p).drive = s.drive
      ∧ (s.takeCarry h p).table = s.table ∧ (s.takeCarry h p).ranks = s.ranks ∧ (s.takeCarry h p).beacon = s.beacon
      ∧ (s.takeCarry h p).beaconSerial = s.beaconSerial ∧ (s.takeCarry h p).cursor = s.cursor
      ∧ (s.takeCarry h p).power = s.power ∧ (s.takeCarry h p).serial = s.serial
      ∧ (s.takeCarry h p).tableCursor = s.tableCursor ∧ (s.takeCarry h p).response = s.response
      ∧ (s.takeCarry h p).fetching = s.fetching ∧ (s.takeCarry h p).masks = s.masks
      ∧ (s.takeCarry h p).modes = s.modes ∧ (s.takeCarry h p).latches = s.latches
      ∧ (s.takeCarry h p).stretch = s.stretch ∧ (s.takeCarry h p).alternation = s.alternation
      ∧ (s.takeCarry h p).burst = s.burst ∧ (s.takeCarry h p).burstRec = s.burstRec
      ∧ (s.takeCarry h p).tally = s.tally ∧ (s.takeCarry h p).unstated = s.unstated := by
  unfold State.takeCarry
  repeat' split
  all_goals simp

/-- What a HUSH leaves as it was at the seen list (R69). -/
@[simp] theorem State.takeHush_frame (s : State) (h : HushHeader) :
    (s.takeHush h).now = s.now ∧ (s.takeHush h).pending = s.pending ∧ (s.takeHush h).station = s.station
      ∧ (s.takeHush h).loader = s.loader ∧ (s.takeHush h).record = s.record ∧ (s.takeHush h).rx = s.rx
      ∧ (s.takeHush h).tx = s.tx ∧ (s.takeHush h).rftx = s.rftx ∧ (s.takeHush h).drive = s.drive
      ∧ (s.takeHush h).jitter = s.jitter ∧ (s.takeHush h).table = s.table ∧ (s.takeHush h).ranks = s.ranks
      ∧ (s.takeHush h).beacon = s.beacon ∧ (s.takeHush h).beaconSerial = s.beaconSerial
      ∧ (s.takeHush h).hushQueue = s.hushQueue ∧ (s.takeHush h).hushHead = s.hushHead ∧ (s.takeHush h).mem = s.mem
      ∧ (s.takeHush h).cursor = s.cursor ∧ (s.takeHush h).power = s.power ∧ (s.takeHush h).ring = s.ring
      ∧ (s.takeHush h).serial = s.serial ∧ (s.takeHush h).tableCursor = s.tableCursor
      ∧ (s.takeHush h).response = s.response ∧ (s.takeHush h).fetching = s.fetching ∧ (s.takeHush h).masks = s.masks
      ∧ (s.takeHush h).modes = s.modes ∧ (s.takeHush h).latches = s.latches ∧ (s.takeHush h).stretch = s.stretch
      ∧ (s.takeHush h).alternation = s.alternation ∧ (s.takeHush h).burst = s.burst
      ∧ (s.takeHush h).burstRec = s.burstRec ∧ (s.takeHush h).tally = s.tally ∧ (s.takeHush h).unstated = s.unstated := by
  unfold State.takeHush
  repeat' split
  all_goals simp

/-- What a hold deadline leaves as it was (R91). -/
@[simp] theorem State.expireHold_frame (s : State) (i : Fin 16) (e : Hold) :
    (s.expireHold i e).now = s.now ∧ (s.expireHold i e).pending = s.pending ∧ (s.expireHold i e).station = s.station
      ∧ (s.expireHold i e).loader = s.loader ∧ (s.expireHold i e).record = s.record ∧ (s.expireHold i e).rx = s.rx
      ∧ (s.expireHold i e).tx = s.tx ∧ (s.expireHold i e).rftx = s.rftx ∧ (s.expireHold i e).drive = s.drive
      ∧ (s.expireHold i e).jitter = s.jitter ∧ (s.expireHold i e).table = s.table
      ∧ (s.expireHold i e).ranks = s.ranks ∧ (s.expireHold i e).beacon = s.beacon
      ∧ (s.expireHold i e).beaconSerial = s.beaconSerial ∧ (s.expireHold i e).hushQueue = s.hushQueue
      ∧ (s.expireHold i e).hushHead = s.hushHead ∧ (s.expireHold i e).mem = s.mem
      ∧ (s.expireHold i e).cursor = s.cursor ∧ (s.expireHold i e).power = s.power ∧ (s.expireHold i e).ring = s.ring
      ∧ (s.expireHold i e).serial = s.serial ∧ (s.expireHold i e).tableCursor = s.tableCursor
      ∧ (s.expireHold i e).response = s.response ∧ (s.expireHold i e).fetching = s.fetching
      ∧ (s.expireHold i e).masks = s.masks ∧ (s.expireHold i e).modes = s.modes
      ∧ (s.expireHold i e).latches = s.latches ∧ (s.expireHold i e).stretch = s.stretch
      ∧ (s.expireHold i e).alternation = s.alternation ∧ (s.expireHold i e).burst = s.burst
      ∧ (s.expireHold i e).burstRec = s.burstRec ∧ (s.expireHold i e).tally = s.tally
      ∧ (s.expireHold i e).unstated = s.unstated := by
  unfold State.expireHold
  repeat' split
  all_goals simp

/-- What an echo deadline leaves as it was (R98). -/
@[simp] theorem State.expireEcho_frame (s : State) (i : Fin 16) (e : Hold) :
    (s.expireEcho i e).now = s.now ∧ (s.expireEcho i e).pending = s.pending ∧ (s.expireEcho i e).station = s.station
      ∧ (s.expireEcho i e).loader = s.loader ∧ (s.expireEcho i e).record = s.record ∧ (s.expireEcho i e).rx = s.rx
      ∧ (s.expireEcho i e).tx = s.tx ∧ (s.expireEcho i e).rftx = s.rftx ∧ (s.expireEcho i e).drive = s.drive
      ∧ (s.expireEcho i e).table = s.table ∧ (s.expireEcho i e).ranks = s.ranks
      ∧ (s.expireEcho i e).beacon = s.beacon ∧ (s.expireEcho i e).beaconSerial = s.beaconSerial
      ∧ (s.expireEcho i e).hushQueue = s.hushQueue ∧ (s.expireEcho i e).hushHead = s.hushHead
      ∧ (s.expireEcho i e).mem = s.mem ∧ (s.expireEcho i e).cursor = s.cursor ∧ (s.expireEcho i e).power = s.power
      ∧ (s.expireEcho i e).ring = s.ring ∧ (s.expireEcho i e).serial = s.serial
      ∧ (s.expireEcho i e).tableCursor = s.tableCursor ∧ (s.expireEcho i e).response = s.response
      ∧ (s.expireEcho i e).fetching = s.fetching ∧ (s.expireEcho i e).masks = s.masks
      ∧ (s.expireEcho i e).modes = s.modes ∧ (s.expireEcho i e).latches = s.latches
      ∧ (s.expireEcho i e).stretch = s.stretch ∧ (s.expireEcho i e).alternation = s.alternation
      ∧ (s.expireEcho i e).burst = s.burst ∧ (s.expireEcho i e).burstRec = s.burstRec
      ∧ (s.expireEcho i e).tally = s.tally ∧ (s.expireEcho i e).unstated = s.unstated := by
  unfold State.expireEcho
  dsimp only
  repeat' split
  all_goals simp

/-- What a deferral leaves as it was (R18). -/
@[simp] theorem State.deferOwner_frame (s : State) (o : Owner) :
    (s.deferOwner o).now = s.now ∧ (s.deferOwner o).pending = s.pending ∧ (s.deferOwner o).station = s.station
      ∧ (s.deferOwner o).loader = s.loader ∧ (s.deferOwner o).record = s.record ∧ (s.deferOwner o).rx = s.rx
      ∧ (s.deferOwner o).rftx = s.rftx ∧ (s.deferOwner o).drive = s.drive ∧ (s.deferOwner o).table = s.table
      ∧ (s.deferOwner o).ranks = s.ranks ∧ (s.deferOwner o).beaconSerial = s.beaconSerial
      ∧ (s.deferOwner o).hushQueue = s.hushQueue ∧ (s.deferOwner o).mem = s.mem ∧ (s.deferOwner o).cursor = s.cursor
      ∧ (s.deferOwner o).power = s.power ∧ (s.deferOwner o).ring = s.ring ∧ (s.deferOwner o).serial = s.serial
      ∧ (s.deferOwner o).tableCursor = s.tableCursor ∧ (s.deferOwner o).response = s.response
      ∧ (s.deferOwner o).fetching = s.fetching ∧ (s.deferOwner o).masks = s.masks ∧ (s.deferOwner o).modes = s.modes
      ∧ (s.deferOwner o).latches = s.latches ∧ (s.deferOwner o).stretch = s.stretch
      ∧ (s.deferOwner o).alternation = s.alternation ∧ (s.deferOwner o).burstRec = s.burstRec
      ∧ (s.deferOwner o).tally = s.tally ∧ (s.deferOwner o).unstated = s.unstated := by
  unfold State.deferOwner
  dsimp only
  repeat' split
  all_goals simp

/-- What marking the granted owner leaves as it was (R15). -/
@[simp] theorem State.markGranted_frame (s : State) (o : Owner) :
    (s.markGranted o).now = s.now ∧ (s.markGranted o).pending = s.pending ∧ (s.markGranted o).station = s.station
      ∧ (s.markGranted o).loader = s.loader ∧ (s.markGranted o).record = s.record ∧ (s.markGranted o).rx = s.rx
      ∧ (s.markGranted o).tx = s.tx ∧ (s.markGranted o).rftx = s.rftx ∧ (s.markGranted o).drive = s.drive
      ∧ (s.markGranted o).jitter = s.jitter ∧ (s.markGranted o).table = s.table ∧ (s.markGranted o).ranks = s.ranks
      ∧ (s.markGranted o).beaconSerial = s.beaconSerial ∧ (s.markGranted o).seen = s.seen
      ∧ (s.markGranted o).hushQueue = s.hushQueue ∧ (s.markGranted o).mem = s.mem ∧ (s.markGranted o).free = s.free
      ∧ (s.markGranted o).cursor = s.cursor ∧ (s.markGranted o).power = s.power ∧ (s.markGranted o).rate = s.rate
      ∧ (s.markGranted o).echoed = s.echoed ∧ (s.markGranted o).unechoed = s.unechoed
      ∧ (s.markGranted o).ring = s.ring ∧ (s.markGranted o).slots = s.slots ∧ (s.markGranted o).serial = s.serial
      ∧ (s.markGranted o).tableCursor = s.tableCursor ∧ (s.markGranted o).response = s.response
      ∧ (s.markGranted o).fetching = s.fetching ∧ (s.markGranted o).masks = s.masks
      ∧ (s.markGranted o).modes = s.modes ∧ (s.markGranted o).latches = s.latches
      ∧ (s.markGranted o).statuses = s.statuses ∧ (s.markGranted o).stretch = s.stretch
      ∧ (s.markGranted o).alternation = s.alternation ∧ (s.markGranted o).burstRec = s.burstRec
      ∧ (s.markGranted o).tally = s.tally ∧ (s.markGranted o).stats = s.stats
      ∧ (s.markGranted o).unstated = s.unstated := by
  unfold State.markGranted
  repeat' split
  all_goals simp

/-- What a grant leaves as it was (R15). -/
@[simp] theorem State.grant_frame (s : State) (o : Owner) :
    (s.grant o).now = s.now ∧ (s.grant o).pending = s.pending ∧ (s.grant o).station = s.station
      ∧ (s.grant o).loader = s.loader ∧ (s.grant o).record = s.record ∧ (s.grant o).rx = s.rx
      ∧ (s.grant o).rftx = s.rftx ∧ (s.grant o).drive = s.drive ∧ (s.grant o).table = s.table
      ∧ (s.grant o).ranks = s.ranks ∧ (s.grant o).beaconSerial = s.beaconSerial
      ∧ (s.grant o).hushQueue = s.hushQueue ∧ (s.grant o).mem = s.mem ∧ (s.grant o).cursor = s.cursor
      ∧ (s.grant o).power = s.power ∧ (s.grant o).ring = s.ring ∧ (s.grant o).serial = s.serial
      ∧ (s.grant o).tableCursor = s.tableCursor ∧ (s.grant o).response = s.response
      ∧ (s.grant o).fetching = s.fetching ∧ (s.grant o).masks = s.masks ∧ (s.grant o).modes = s.modes
      ∧ (s.grant o).latches = s.latches ∧ (s.grant o).stretch = s.stretch ∧ (s.grant o).alternation = s.alternation
      ∧ (s.grant o).burstRec = s.burstRec ∧ (s.grant o).tally = s.tally ∧ (s.grant o).unstated = s.unstated := by
  unfold State.grant
  dsimp only
  repeat' split
  all_goals simp

/-- What the arbiter leaves as it was (R15). -/
@[simp] theorem State.arbitrateUpTo_frame (s : State) (n : Nat) :
    (State.arbitrateUpTo n s).now = s.now ∧ (State.arbitrateUpTo n s).pending = s.pending
      ∧ (State.arbitrateUpTo n s).station = s.station ∧ (State.arbitrateUpTo n s).loader = s.loader
      ∧ (State.arbitrateUpTo n s).record = s.record ∧ (State.arbitrateUpTo n s).rx = s.rx ∧ (State.arbitrateUpTo n s).rftx = s.rftx
      ∧ (State.arbitrateUpTo n s).drive = s.drive ∧ (State.arbitrateUpTo n s).table = s.table
      ∧ (State.arbitrateUpTo n s).ranks = s.ranks ∧ (State.arbitrateUpTo n s).beaconSerial = s.beaconSerial
      ∧ (State.arbitrateUpTo n s).hushQueue = s.hushQueue ∧ (State.arbitrateUpTo n s).mem = s.mem
      ∧ (State.arbitrateUpTo n s).cursor = s.cursor ∧ (State.arbitrateUpTo n s).power = s.power
      ∧ (State.arbitrateUpTo n s).ring = s.ring ∧ (State.arbitrateUpTo n s).serial = s.serial
      ∧ (State.arbitrateUpTo n s).tableCursor = s.tableCursor ∧ (State.arbitrateUpTo n s).response = s.response
      ∧ (State.arbitrateUpTo n s).fetching = s.fetching ∧ (State.arbitrateUpTo n s).masks = s.masks
      ∧ (State.arbitrateUpTo n s).modes = s.modes ∧ (State.arbitrateUpTo n s).latches = s.latches
      ∧ (State.arbitrateUpTo n s).stretch = s.stretch ∧ (State.arbitrateUpTo n s).alternation = s.alternation
      ∧ (State.arbitrateUpTo n s).burstRec = s.burstRec ∧ (State.arbitrateUpTo n s).tally = s.tally
      ∧ (State.arbitrateUpTo n s).unstated = s.unstated := by
  induction n generalizing s with
  | zero => simp [State.arbitrateUpTo]
  | succ n ih =>
    unfold State.arbitrateUpTo
    repeat' split
    all_goals simp [ih]

/-- What the arbiter leaves as it was (R15). -/
@[simp] theorem State.arbitrate_frame (s : State) :
    s.arbitrate.now = s.now ∧ s.arbitrate.pending = s.pending ∧ s.arbitrate.station = s.station
      ∧ s.arbitrate.loader = s.loader ∧ s.arbitrate.record = s.record ∧ s.arbitrate.rx = s.rx
      ∧ s.arbitrate.rftx = s.rftx ∧ s.arbitrate.drive = s.drive ∧ s.arbitrate.table = s.table
      ∧ s.arbitrate.ranks = s.ranks ∧ s.arbitrate.beaconSerial = s.beaconSerial
      ∧ s.arbitrate.hushQueue = s.hushQueue ∧ s.arbitrate.mem = s.mem ∧ s.arbitrate.cursor = s.cursor
      ∧ s.arbitrate.power = s.power ∧ s.arbitrate.ring = s.ring ∧ s.arbitrate.serial = s.serial
      ∧ s.arbitrate.tableCursor = s.tableCursor ∧ s.arbitrate.response = s.response
      ∧ s.arbitrate.fetching = s.fetching ∧ s.arbitrate.masks = s.masks ∧ s.arbitrate.modes = s.modes
      ∧ s.arbitrate.latches = s.latches ∧ s.arbitrate.stretch = s.stretch ∧ s.arbitrate.alternation = s.alternation
      ∧ s.arbitrate.burstRec = s.burstRec ∧ s.arbitrate.tally = s.tally ∧ s.arbitrate.unstated = s.unstated := by
  unfold State.arbitrate
  all_goals simp

/-- What the end of an event leaves as it was. -/
@[simp] theorem State.finish_frame (s : State) :
    s.finish.now = s.now ∧ s.finish.pending = s.pending ∧ s.finish.station = s.station ∧ s.finish.loader = s.loader
      ∧ s.finish.record = s.record ∧ s.finish.rx = s.rx ∧ s.finish.rftx = s.rftx ∧ s.finish.drive = s.drive
      ∧ s.finish.table = s.table ∧ s.finish.ranks = s.ranks ∧ s.finish.beaconSerial = s.beaconSerial
      ∧ s.finish.hushQueue = s.hushQueue ∧ s.finish.mem = s.mem ∧ s.finish.cursor = s.cursor
      ∧ s.finish.power = s.power ∧ s.finish.ring = s.ring ∧ s.finish.serial = s.serial
      ∧ s.finish.tableCursor = s.tableCursor ∧ s.finish.response = s.response ∧ s.finish.fetching = s.fetching
      ∧ s.finish.masks = s.masks ∧ s.finish.modes = s.modes ∧ s.finish.latches = s.latches
      ∧ s.finish.stretch = s.stretch ∧ s.finish.alternation = s.alternation ∧ s.finish.burstRec = s.burstRec
      ∧ s.finish.tally = s.tally ∧ s.finish.unstated = s.unstated := by
  unfold State.finish
  all_goals simp

/-- What a busy judgement leaves as it was (R16). -/
@[simp] theorem State.judgeBusy_frame (s : State) :
    s.judgeBusy.now = s.now ∧ s.judgeBusy.pending = s.pending ∧ s.judgeBusy.station = s.station
      ∧ s.judgeBusy.loader = s.loader ∧ s.judgeBusy.record = s.record ∧ s.judgeBusy.rx = s.rx
      ∧ s.judgeBusy.rftx = s.rftx ∧ s.judgeBusy.drive = s.drive ∧ s.judgeBusy.table = s.table
      ∧ s.judgeBusy.ranks = s.ranks ∧ s.judgeBusy.beaconSerial = s.beaconSerial
      ∧ s.judgeBusy.hushQueue = s.hushQueue ∧ s.judgeBusy.mem = s.mem ∧ s.judgeBusy.cursor = s.cursor
      ∧ s.judgeBusy.power = s.power ∧ s.judgeBusy.ring = s.ring ∧ s.judgeBusy.serial = s.serial
      ∧ s.judgeBusy.tableCursor = s.tableCursor ∧ s.judgeBusy.response = s.response
      ∧ s.judgeBusy.fetching = s.fetching ∧ s.judgeBusy.masks = s.masks ∧ s.judgeBusy.modes = s.modes
      ∧ s.judgeBusy.latches = s.latches ∧ s.judgeBusy.stretch = s.stretch ∧ s.judgeBusy.alternation = s.alternation
      ∧ s.judgeBusy.burstRec = s.burstRec ∧ s.judgeBusy.tally = s.tally ∧ s.judgeBusy.unstated = s.unstated := by
  unfold State.judgeBusy
  repeat' split
  all_goals simp

/-- "clear" writes the hold list alone (R94). -/
@[simp] theorem State.ownerClear_frame (s : State) (o : Owner) :
    (s.ownerClear o).now = s.now ∧ (s.ownerClear o).pending = s.pending ∧ (s.ownerClear o).station = s.station
      ∧ (s.ownerClear o).loader = s.loader ∧ (s.ownerClear o).record = s.record ∧ (s.ownerClear o).rx = s.rx
      ∧ (s.ownerClear o).tx = s.tx ∧ (s.ownerClear o).rftx = s.rftx ∧ (s.ownerClear o).drive = s.drive
      ∧ (s.ownerClear o).jitter = s.jitter ∧ (s.ownerClear o).table = s.table ∧ (s.ownerClear o).ranks = s.ranks
      ∧ (s.ownerClear o).beacon = s.beacon ∧ (s.ownerClear o).beaconSerial = s.beaconSerial
      ∧ (s.ownerClear o).seen = s.seen ∧ (s.ownerClear o).hushQueue = s.hushQueue
      ∧ (s.ownerClear o).hushHead = s.hushHead ∧ (s.ownerClear o).mem = s.mem ∧ (s.ownerClear o).free = s.free
      ∧ (s.ownerClear o).cursor = s.cursor ∧ (s.ownerClear o).power = s.power ∧ (s.ownerClear o).rate = s.rate
      ∧ (s.ownerClear o).echoed = s.echoed ∧ (s.ownerClear o).unechoed = s.unechoed ∧ (s.ownerClear o).ring = s.ring
      ∧ (s.ownerClear o).slots = s.slots ∧ (s.ownerClear o).serial = s.serial
      ∧ (s.ownerClear o).tableCursor = s.tableCursor ∧ (s.ownerClear o).response = s.response
      ∧ (s.ownerClear o).fetching = s.fetching ∧ (s.ownerClear o).masks = s.masks ∧ (s.ownerClear o).modes = s.modes
      ∧ (s.ownerClear o).latches = s.latches ∧ (s.ownerClear o).statuses = s.statuses
      ∧ (s.ownerClear o).stretch = s.stretch ∧ (s.ownerClear o).alternation = s.alternation
      ∧ (s.ownerClear o).burst = s.burst ∧ (s.ownerClear o).burstRec = s.burstRec ∧ (s.ownerClear o).tally = s.tally
      ∧ (s.ownerClear o).stats = s.stats ∧ (s.ownerClear o).unstated = s.unstated := by
  unfold State.ownerClear
  repeat' split
  all_goals simp

/-- The density step writes the power code alone (R132). -/
@[simp] theorem State.densityStep_frame (s : State) :
    s.densityStep.now = s.now ∧ s.densityStep.pending = s.pending ∧ s.densityStep.station = s.station
      ∧ s.densityStep.loader = s.loader ∧ s.densityStep.record = s.record ∧ s.densityStep.rx = s.rx
      ∧ s.densityStep.tx = s.tx ∧ s.densityStep.rftx = s.rftx ∧ s.densityStep.drive = s.drive
      ∧ s.densityStep.jitter = s.jitter ∧ s.densityStep.table = s.table ∧ s.densityStep.ranks = s.ranks
      ∧ s.densityStep.beacon = s.beacon ∧ s.densityStep.beaconSerial = s.beaconSerial ∧ s.densityStep.seen = s.seen
      ∧ s.densityStep.hold = s.hold ∧ s.densityStep.hushQueue = s.hushQueue ∧ s.densityStep.hushHead = s.hushHead
      ∧ s.densityStep.mem = s.mem ∧ s.densityStep.free = s.free ∧ s.densityStep.cursor = s.cursor
      ∧ s.densityStep.rate = s.rate ∧ s.densityStep.echoed = s.echoed ∧ s.densityStep.unechoed = s.unechoed
      ∧ s.densityStep.ring = s.ring ∧ s.densityStep.slots = s.slots ∧ s.densityStep.serial = s.serial
      ∧ s.densityStep.tableCursor = s.tableCursor ∧ s.densityStep.response = s.response
      ∧ s.densityStep.fetching = s.fetching ∧ s.densityStep.masks = s.masks ∧ s.densityStep.modes = s.modes
      ∧ s.densityStep.latches = s.latches ∧ s.densityStep.statuses = s.statuses ∧ s.densityStep.stretch = s.stretch
      ∧ s.densityStep.alternation = s.alternation ∧ s.densityStep.burst = s.burst
      ∧ s.densityStep.burstRec = s.burstRec ∧ s.densityStep.tally = s.tally ∧ s.densityStep.stats = s.stats
      ∧ s.densityStep.unstated = s.unstated := by
  unfold State.densityStep
  repeat' split
  all_goals simp

/-- What "sent" leaves as it was for a hold entry (R96). -/
@[simp] theorem State.holdSent_frame (s : State) (i : Fin 16) :
    (s.holdSent i).now = s.now ∧ (s.holdSent i).pending = s.pending ∧ (s.holdSent i).station = s.station
      ∧ (s.holdSent i).loader = s.loader ∧ (s.holdSent i).record = s.record ∧ (s.holdSent i).rx = s.rx
      ∧ (s.holdSent i).tx = s.tx ∧ (s.holdSent i).rftx = s.rftx ∧ (s.holdSent i).drive = s.drive
      ∧ (s.holdSent i).jitter = s.jitter ∧ (s.holdSent i).table = s.table ∧ (s.holdSent i).ranks = s.ranks
      ∧ (s.holdSent i).beacon = s.beacon ∧ (s.holdSent i).beaconSerial = s.beaconSerial
      ∧ (s.holdSent i).hushQueue = s.hushQueue ∧ (s.holdSent i).hushHead = s.hushHead ∧ (s.holdSent i).mem = s.mem
      ∧ (s.holdSent i).cursor = s.cursor ∧ (s.holdSent i).power = s.power ∧ (s.holdSent i).ring = s.ring
      ∧ (s.holdSent i).serial = s.serial ∧ (s.holdSent i).tableCursor = s.tableCursor
      ∧ (s.holdSent i).response = s.response ∧ (s.holdSent i).fetching = s.fetching ∧ (s.holdSent i).masks = s.masks
      ∧ (s.holdSent i).modes = s.modes ∧ (s.holdSent i).latches = s.latches ∧ (s.holdSent i).stretch = s.stretch
      ∧ (s.holdSent i).alternation = s.alternation ∧ (s.holdSent i).burst = s.burst
      ∧ (s.holdSent i).burstRec = s.burstRec ∧ (s.holdSent i).tally = s.tally ∧ (s.holdSent i).unstated = s.unstated := by
  unfold State.holdSent
  repeat' split
  all_goals simp

/-- What "sent" leaves as it was for a survey frame (R175). -/
@[simp] theorem State.surveySent_frame (s : State) :
    s.surveySent.now = s.now ∧ s.surveySent.pending = s.pending ∧ s.surveySent.station = s.station
      ∧ s.surveySent.loader = s.loader ∧ s.surveySent.record = s.record ∧ s.surveySent.rx = s.rx
      ∧ s.surveySent.tx = s.tx ∧ s.surveySent.rftx = s.rftx ∧ s.surveySent.drive = s.drive
      ∧ s.surveySent.jitter = s.jitter ∧ s.surveySent.table = s.table ∧ s.surveySent.ranks = s.ranks
      ∧ s.surveySent.beacon = s.beacon ∧ s.surveySent.beaconSerial = s.beaconSerial ∧ s.surveySent.seen = s.seen
      ∧ s.surveySent.hold = s.hold ∧ s.surveySent.hushQueue = s.hushQueue ∧ s.surveySent.hushHead = s.hushHead
      ∧ s.surveySent.mem = s.mem ∧ s.surveySent.free = s.free ∧ s.surveySent.cursor = s.cursor
      ∧ s.surveySent.power = s.power ∧ s.surveySent.rate = s.rate ∧ s.surveySent.echoed = s.echoed
      ∧ s.surveySent.unechoed = s.unechoed ∧ s.surveySent.ring = s.ring ∧ s.surveySent.slots = s.slots
      ∧ s.surveySent.serial = s.serial ∧ s.surveySent.tableCursor = s.tableCursor
      ∧ s.surveySent.response = s.response ∧ s.surveySent.fetching = s.fetching ∧ s.surveySent.masks = s.masks
      ∧ s.surveySent.modes = s.modes ∧ s.surveySent.latches = s.latches ∧ s.surveySent.stretch = s.stretch
      ∧ s.surveySent.alternation = s.alternation ∧ s.surveySent.tally = s.tally ∧ s.surveySent.stats = s.stats
      ∧ s.surveySent.unstated = s.unstated := by
  unfold State.surveySent
  dsimp only
  repeat' split
  all_goals simp

/-- What "sent" leaves as it was (R18). -/
@[simp] theorem State.ownerSent_frame (s : State) (o : Owner) :
    (s.ownerSent o).now = s.now ∧ (s.ownerSent o).pending = s.pending ∧ (s.ownerSent o).station = s.station
      ∧ (s.ownerSent o).loader = s.loader ∧ (s.ownerSent o).record = s.record ∧ (s.ownerSent o).rx = s.rx
      ∧ (s.ownerSent o).tx = s.tx ∧ (s.ownerSent o).rftx = s.rftx ∧ (s.ownerSent o).drive = s.drive
      ∧ (s.ownerSent o).table = s.table ∧ (s.ownerSent o).ranks = s.ranks ∧ (s.ownerSent o).mem = s.mem
      ∧ (s.ownerSent o).cursor = s.cursor ∧ (s.ownerSent o).ring = s.ring ∧ (s.ownerSent o).serial = s.serial
      ∧ (s.ownerSent o).tableCursor = s.tableCursor ∧ (s.ownerSent o).response = s.response
      ∧ (s.ownerSent o).fetching = s.fetching ∧ (s.ownerSent o).masks = s.masks ∧ (s.ownerSent o).modes = s.modes
      ∧ (s.ownerSent o).latches = s.latches ∧ (s.ownerSent o).stretch = s.stretch
      ∧ (s.ownerSent o).alternation = s.alternation ∧ (s.ownerSent o).tally = s.tally
      ∧ (s.ownerSent o).unstated = s.unstated := by
  unfold State.ownerSent State.beaconSent State.hushSent
  repeat' split
  all_goals simp

/-- What cancelling leaves as it was (R19). -/
@[simp] theorem State.cancelOwner_frame (s : State) (o : Owner) :
    (s.cancelOwner o).now = s.now ∧ (s.cancelOwner o).pending = s.pending ∧ (s.cancelOwner o).station = s.station
      ∧ (s.cancelOwner o).loader = s.loader ∧ (s.cancelOwner o).record = s.record ∧ (s.cancelOwner o).rx = s.rx
      ∧ (s.cancelOwner o).rftx = s.rftx ∧ (s.cancelOwner o).drive = s.drive ∧ (s.cancelOwner o).jitter = s.jitter
      ∧ (s.cancelOwner o).table = s.table ∧ (s.cancelOwner o).ranks = s.ranks
      ∧ (s.cancelOwner o).beaconSerial = s.beaconSerial ∧ (s.cancelOwner o).seen = s.seen
      ∧ (s.cancelOwner o).hold = s.hold ∧ (s.cancelOwner o).hushQueue = s.hushQueue ∧ (s.cancelOwner o).mem = s.mem
      ∧ (s.cancelOwner o).free = s.free ∧ (s.cancelOwner o).cursor = s.cursor ∧ (s.cancelOwner o).power = s.power
      ∧ (s.cancelOwner o).rate = s.rate ∧ (s.cancelOwner o).echoed = s.echoed
      ∧ (s.cancelOwner o).unechoed = s.unechoed ∧ (s.cancelOwner o).ring = s.ring
      ∧ (s.cancelOwner o).slots = s.slots ∧ (s.cancelOwner o).serial = s.serial
      ∧ (s.cancelOwner o).tableCursor = s.tableCursor ∧ (s.cancelOwner o).response = s.response
      ∧ (s.cancelOwner o).fetching = s.fetching ∧ (s.cancelOwner o).masks = s.masks
      ∧ (s.cancelOwner o).modes = s.modes ∧ (s.cancelOwner o).latches = s.latches
      ∧ (s.cancelOwner o).statuses = s.statuses ∧ (s.cancelOwner o).stretch = s.stretch
      ∧ (s.cancelOwner o).alternation = s.alternation ∧ (s.cancelOwner o).burstRec = s.burstRec
      ∧ (s.cancelOwner o).tally = s.tally ∧ (s.cancelOwner o).stats = s.stats
      ∧ (s.cancelOwner o).unstated = s.unstated := by
  unfold State.cancelOwner
  dsimp only
  repeat' split
  all_goals simp

/-- What cancelling the attempt leaves as it was (R19). -/
@[simp] theorem State.cancelAttempt_frame (s : State) :
    s.cancelAttempt.now = s.now ∧ s.cancelAttempt.pending = s.pending ∧ s.cancelAttempt.station = s.station
      ∧ s.cancelAttempt.loader = s.loader ∧ s.cancelAttempt.record = s.record ∧ s.cancelAttempt.rx = s.rx
      ∧ s.cancelAttempt.rftx = s.rftx ∧ s.cancelAttempt.drive = s.drive ∧ s.cancelAttempt.jitter = s.jitter
      ∧ s.cancelAttempt.table = s.table ∧ s.cancelAttempt.ranks = s.ranks
      ∧ s.cancelAttempt.beaconSerial = s.beaconSerial ∧ s.cancelAttempt.seen = s.seen
      ∧ s.cancelAttempt.hold = s.hold ∧ s.cancelAttempt.hushQueue = s.hushQueue ∧ s.cancelAttempt.mem = s.mem
      ∧ s.cancelAttempt.free = s.free ∧ s.cancelAttempt.cursor = s.cursor ∧ s.cancelAttempt.power = s.power
      ∧ s.cancelAttempt.rate = s.rate ∧ s.cancelAttempt.echoed = s.echoed ∧ s.cancelAttempt.unechoed = s.unechoed
      ∧ s.cancelAttempt.ring = s.ring ∧ s.cancelAttempt.slots = s.slots ∧ s.cancelAttempt.serial = s.serial
      ∧ s.cancelAttempt.tableCursor = s.tableCursor ∧ s.cancelAttempt.response = s.response
      ∧ s.cancelAttempt.fetching = s.fetching ∧ s.cancelAttempt.masks = s.masks ∧ s.cancelAttempt.modes = s.modes
      ∧ s.cancelAttempt.latches = s.latches ∧ s.cancelAttempt.statuses = s.statuses
      ∧ s.cancelAttempt.stretch = s.stretch ∧ s.cancelAttempt.alternation = s.alternation
      ∧ s.cancelAttempt.burstRec = s.burstRec ∧ s.cancelAttempt.tally = s.tally ∧ s.cancelAttempt.stats = s.stats
      ∧ s.cancelAttempt.unstated = s.unstated := by
  unfold State.cancelAttempt
  repeat' split
  all_goals simp

/-- What cancelling a survey frame leaves as it was (R176). -/
@[simp] theorem State.cancelSurvey_frame (s : State) :
    s.cancelSurvey.now = s.now ∧ s.cancelSurvey.pending = s.pending ∧ s.cancelSurvey.station = s.station
      ∧ s.cancelSurvey.loader = s.loader ∧ s.cancelSurvey.record = s.record ∧ s.cancelSurvey.rx = s.rx
      ∧ s.cancelSurvey.rftx = s.rftx ∧ s.cancelSurvey.drive = s.drive ∧ s.cancelSurvey.jitter = s.jitter
      ∧ s.cancelSurvey.table = s.table ∧ s.cancelSurvey.ranks = s.ranks
      ∧ s.cancelSurvey.beaconSerial = s.beaconSerial ∧ s.cancelSurvey.seen = s.seen ∧ s.cancelSurvey.hold = s.hold
      ∧ s.cancelSurvey.hushQueue = s.hushQueue ∧ s.cancelSurvey.mem = s.mem ∧ s.cancelSurvey.free = s.free
      ∧ s.cancelSurvey.cursor = s.cursor ∧ s.cancelSurvey.power = s.power ∧ s.cancelSurvey.rate = s.rate
      ∧ s.cancelSurvey.echoed = s.echoed ∧ s.cancelSurvey.unechoed = s.unechoed ∧ s.cancelSurvey.ring = s.ring
      ∧ s.cancelSurvey.slots = s.slots ∧ s.cancelSurvey.serial = s.serial
      ∧ s.cancelSurvey.tableCursor = s.tableCursor ∧ s.cancelSurvey.response = s.response
      ∧ s.cancelSurvey.fetching = s.fetching ∧ s.cancelSurvey.masks = s.masks ∧ s.cancelSurvey.modes = s.modes
      ∧ s.cancelSurvey.latches = s.latches ∧ s.cancelSurvey.statuses = s.statuses
      ∧ s.cancelSurvey.stretch = s.stretch ∧ s.cancelSurvey.alternation = s.alternation
      ∧ s.cancelSurvey.burstRec = s.burstRec ∧ s.cancelSurvey.tally = s.tally ∧ s.cancelSurvey.stats = s.stats
      ∧ s.cancelSurvey.unstated = s.unstated := by
  unfold State.cancelSurvey
  repeat' split
  all_goals simp

/-- Ending a burst early writes the burst state alone (R176). -/
@[simp] theorem State.endBurst_frame (s : State) :
    s.endBurst.now = s.now ∧ s.endBurst.pending = s.pending ∧ s.endBurst.station = s.station
      ∧ s.endBurst.loader = s.loader ∧ s.endBurst.record = s.record ∧ s.endBurst.rx = s.rx ∧ s.endBurst.tx = s.tx
      ∧ s.endBurst.rftx = s.rftx ∧ s.endBurst.drive = s.drive ∧ s.endBurst.jitter = s.jitter
      ∧ s.endBurst.table = s.table ∧ s.endBurst.ranks = s.ranks ∧ s.endBurst.beacon = s.beacon
      ∧ s.endBurst.beaconSerial = s.beaconSerial ∧ s.endBurst.seen = s.seen ∧ s.endBurst.hold = s.hold
      ∧ s.endBurst.hushQueue = s.hushQueue ∧ s.endBurst.hushHead = s.hushHead ∧ s.endBurst.mem = s.mem
      ∧ s.endBurst.free = s.free ∧ s.endBurst.cursor = s.cursor ∧ s.endBurst.power = s.power
      ∧ s.endBurst.rate = s.rate ∧ s.endBurst.echoed = s.echoed ∧ s.endBurst.unechoed = s.unechoed
      ∧ s.endBurst.ring = s.ring ∧ s.endBurst.slots = s.slots ∧ s.endBurst.serial = s.serial
      ∧ s.endBurst.tableCursor = s.tableCursor ∧ s.endBurst.response = s.response ∧ s.endBurst.fetching = s.fetching
      ∧ s.endBurst.masks = s.masks ∧ s.endBurst.modes = s.modes ∧ s.endBurst.latches = s.latches
      ∧ s.endBurst.statuses = s.statuses ∧ s.endBurst.stretch = s.stretch ∧ s.endBurst.alternation = s.alternation
      ∧ s.endBurst.burstRec = s.burstRec ∧ s.endBurst.tally = s.tally ∧ s.endBurst.stats = s.stats
      ∧ s.endBurst.unstated = s.unstated := by
  unfold State.endBurst
  repeat' split
  all_goals simp

/-- What dropping one entry at SILENCE leaves as it was (R100). -/
@[simp] theorem State.silenceHold_frame (s : State) (i : Fin 16) :
    (s.silenceHold i).now = s.now ∧ (s.silenceHold i).pending = s.pending ∧ (s.silenceHold i).station = s.station
      ∧ (s.silenceHold i).loader = s.loader ∧ (s.silenceHold i).record = s.record ∧ (s.silenceHold i).rx = s.rx
      ∧ (s.silenceHold i).tx = s.tx ∧ (s.silenceHold i).rftx = s.rftx ∧ (s.silenceHold i).drive = s.drive
      ∧ (s.silenceHold i).jitter = s.jitter ∧ (s.silenceHold i).table = s.table ∧ (s.silenceHold i).ranks = s.ranks
      ∧ (s.silenceHold i).beacon = s.beacon ∧ (s.silenceHold i).beaconSerial = s.beaconSerial
      ∧ (s.silenceHold i).hushQueue = s.hushQueue ∧ (s.silenceHold i).hushHead = s.hushHead
      ∧ (s.silenceHold i).mem = s.mem ∧ (s.silenceHold i).cursor = s.cursor ∧ (s.silenceHold i).power = s.power
      ∧ (s.silenceHold i).ring = s.ring ∧ (s.silenceHold i).serial = s.serial
      ∧ (s.silenceHold i).tableCursor = s.tableCursor ∧ (s.silenceHold i).response = s.response
      ∧ (s.silenceHold i).fetching = s.fetching ∧ (s.silenceHold i).masks = s.masks
      ∧ (s.silenceHold i).modes = s.modes ∧ (s.silenceHold i).latches = s.latches
      ∧ (s.silenceHold i).stretch = s.stretch ∧ (s.silenceHold i).alternation = s.alternation
      ∧ (s.silenceHold i).burst = s.burst ∧ (s.silenceHold i).burstRec = s.burstRec
      ∧ (s.silenceHold i).tally = s.tally ∧ (s.silenceHold i).unstated = s.unstated := by
  unfold State.silenceHold
  repeat' split
  all_goals simp

/-- What dropping the entries at SILENCE leaves as it was (R100). -/
@[simp] theorem State.silenceHolds_frame (s : State) :
    s.silenceHolds.now = s.now ∧ s.silenceHolds.pending = s.pending ∧ s.silenceHolds.station = s.station
      ∧ s.silenceHolds.loader = s.loader ∧ s.silenceHolds.record = s.record ∧ s.silenceHolds.rx = s.rx
      ∧ s.silenceHolds.tx = s.tx ∧ s.silenceHolds.rftx = s.rftx ∧ s.silenceHolds.drive = s.drive
      ∧ s.silenceHolds.jitter = s.jitter ∧ s.silenceHolds.table = s.table ∧ s.silenceHolds.ranks = s.ranks
      ∧ s.silenceHolds.beacon = s.beacon ∧ s.silenceHolds.beaconSerial = s.beaconSerial
      ∧ s.silenceHolds.hushQueue = s.hushQueue ∧ s.silenceHolds.hushHead = s.hushHead ∧ s.silenceHolds.mem = s.mem
      ∧ s.silenceHolds.cursor = s.cursor ∧ s.silenceHolds.power = s.power ∧ s.silenceHolds.ring = s.ring
      ∧ s.silenceHolds.serial = s.serial ∧ s.silenceHolds.tableCursor = s.tableCursor
      ∧ s.silenceHolds.response = s.response ∧ s.silenceHolds.fetching = s.fetching ∧ s.silenceHolds.masks = s.masks
      ∧ s.silenceHolds.modes = s.modes ∧ s.silenceHolds.latches = s.latches ∧ s.silenceHolds.stretch = s.stretch
      ∧ s.silenceHolds.alternation = s.alternation ∧ s.silenceHolds.burst = s.burst
      ∧ s.silenceHolds.burstRec = s.burstRec ∧ s.silenceHolds.tally = s.tally ∧ s.silenceHolds.unstated = s.unstated := by
  unfold State.silenceHolds
  generalize List.finRange 16 = l
  induction l generalizing s with
  | nil => simp
  | cons i l ih => simp [ih]

end Sys2Proof.Machine
end

