-- ==== Sys2Proof/Laws/Places.lean ====
section
/-! SUPPORT. Places of fixed number: what a write to one place reads as, which place a search finds, what removing a
hold entry or inserting a seen entry does, and how the edges and bytes of a serial transaction are counted. -/

namespace Sys2Proof.Machine

/-- The place written reads as written. -/
@[simp] theorem setAt_same {α : Type} {n : Nat} (v : Vector α n) (i : Fin n) (x : α) : (setAt v i x)[i] = x := by
  unfold setAt
  exact Vector.getElem_set_self ..

/-- Every other place reads as before. -/
theorem setAt_other {α : Type} {n : Nat} (v : Vector α n) {i j : Fin n} (x : α) (h : i ≠ j) :
    (setAt v i x)[j] = v[j] := by
  unfold setAt
  exact Vector.getElem_set_ne _ _ fun e => h (Fin.ext e)

/-- Every place after a write, by cases. -/
theorem setAt_get {α : Type} {n : Nat} (v : Vector α n) (i j : Fin n) (x : α) :
    (setAt v i x)[j] = if i = j then x else v[j] := by
  split
  · rename_i h; subst h; exact setAt_same v i x
  · rename_i h; exact setAt_other v x h

/-- A free hold index found is free (R73). -/
theorem State.freeIndex_some {s : State} {i : Fin 16} (h : s.freeIndex = some i) : s.hold[i] = none := by
  have := List.find?_some h
  simpa using this

/-- No free hold index means that every place holds an entry (R81). -/
theorem State.freeIndex_none {s : State} (h : s.freeIndex = none) (i : Fin 16) : s.hold[i].isSome := by
  have := List.find?_eq_none.1 h i (List.mem_finRange i)
  simpa [Option.isSome_iff_ne_none, Option.isNone_iff_eq_none] using this

/-- The hold entry found for an identity has it. -/
theorem State.findHold_some {s : State} {k : Ident} {i : Fin 16} (h : s.findHold k = some i) :
    ∃ e, s.hold[i] = some e ∧ e.ident = k := by
  have := List.find?_some h
  simpa [Option.any_eq_true] using this

/-- The seen entry found for an identity is in the list and has it. -/
theorem State.findSeen_some {s : State} {k : Ident} {e : Seen} (h : s.findSeen k = some e) :
    e ∈ s.seen ∧ e.ident = k :=
  ⟨List.mem_of_find?_eq_some h, by simpa using List.find?_some h⟩

/-- Removing at a free index changes nothing. -/
theorem State.removeHold_none {s : State} {i : Fin 16} {k : Ending} (h : s.hold[i] = none) : s.removeHold i k = s := by
  unfold State.removeHold
  rw [h]

/-- What removing a hold entry does to the hold list, the free list, the seen list and the counters (R75). -/
theorem State.removeHold_some {s : State} {i : Fin 16} {k : Ending} {e : Hold} (h : s.hold[i] = some e) :
    (s.removeHold i k).hold = setAt s.hold i none ∧ (s.removeHold i k).free = s.free ++ e.chain
      ∧ (s.removeHold i k).seen = s.seen.map (fun x => if x.ident = e.ident then Seen.settleAs k.seenStatus x else x)
      ∧ (s.removeHold i k).stats = k.counted s.stats := by
  unfold State.removeHold
  rw [h]
  dsimp only
  split <;> simp

/-- A slot is completed by the removal of the entry that names it (R157). -/
theorem State.completeSlot_some {s : State} {e : Hold} {k : Ending} {q : Fin 4} {o : SlotOutcome}
    (hs : e.slot = some q) (ho : k.slotOutcome = some o) :
    (s.completeSlot e k).slots = setAt s.slots q (.complete e.ident.serial o e.attempts) := by
  unfold State.completeSlot
  rw [hs, ho]

/-- An inserted entry stands at the tail, behind entries of the list as it was (R62). -/
theorem State.insertSeen_seen (s : State) (e : Seen) :
    ∃ kept, (s.insertSeen e).seen = kept ++ [e] ∧ kept.Sublist s.seen := by
  unfold State.insertSeen
  split
  · exact ⟨_, rfl, List.eraseP_sublist⟩
  · exact ⟨_, rfl, List.Sublist.refl _⟩

/-- A command is decoded exactly when its last argument byte is in (R161). -/
theorem decodeTransaction_isSome (t : Time) (bytes : List Byte) :
    (decodeTransaction t bytes).isSome = (commandLength bytes).isSome := Option.isSome_map ..

/-- A command never takes more bytes than were clocked in (R161). -/
theorem commandLength_le {bytes : List Byte} {n : Nat} (h : commandLength bytes = some n) : n ≤ bytes.length := by
  unfold commandLength at h
  split at h
  · simp at h
  · rw [Option.bind_eq_some_iff] at h
    obtain ⟨k, _, h⟩ := h
    split at h <;> simp at h
    simp only [List.length_cons]
    omega

/-- Before the command is taken LDO sends 00 hex (R161). -/
theorem State.ldoByte_before {s : State} {bytes : List Byte} (h : commandLength bytes = none) :
    s.ldoByte bytes = 0 := by
  unfold State.ldoByte
  rw [h]

/-- From the command's last argument byte on LDO sends the answer, byte by byte, and 00 hex after it (R161). -/
theorem State.ldoByte_after {s : State} {bytes : List Byte} {n : Nat} (h : commandLength bytes = some n) :
    s.ldoByte bytes = s.response.getD (bytes.length - n) 0 := by
  unfold State.ldoByte
  rw [h]

/-- An edge of LCLK after others (R161). -/
theorem lampClocked_append (edges : List LampEdge) (e : LampEdge) :
    lampClocked (edges ++ [e]) = clockEdge (lampClocked edges) e := by
  simp [lampClocked]

/-- The bits sampled are those of the rising edges (R161). -/
theorem lampClocked_sampled (edges : List LampEdge) :
    (lampClocked edges).1 = edges.filterMap fun e => match e with
      | .rise ldi => some ldi
      | .fall => none := by
  induction edges using List.reverseRecOn with
  | nil => rfl
  | append_singleton es e ih =>
    rw [lampClocked_append, List.filterMap_append, ← ih]
    cases e <;> simp [clockEdge]

/-- A rising edge of LCLK leaves LDO (R161). -/
theorem State.ldo_rise (s : State) (lsel : Bool) (edges : List LampEdge) (ldi : Bool) :
    s.ldo lsel (edges ++ [.rise ldi]) = s.ldo lsel edges := by
  simp [State.ldo, lampClocked_append, clockEdge]

/-- A falling edge of LCLK moves LDO on to the bit after those sampled (R161). -/
theorem State.ldo_fall (s : State) (edges : List LampEdge) :
    s.ldo false (edges ++ [.fall])
      = some ((s.ldoByte (bytesOfBits (lampClocked edges).1)).getMsbD ((lampClocked edges).1.length % 8)) := by
  simp [State.ldo, lampClocked_append, clockEdge]

/-- A whole transaction of the configuration memory clocks in what it is for (R182). -/
theorem State.memoryReceived_length {s : State} {cmdi : List (Option Bool)} (h : cmdi.length = s.memoryBits) :
    (s.memoryReceived cmdi).length = s.memoryIn := by
  simp only [State.memoryReceived, List.length_drop, bytesOfBits_length, List.length_map, h, State.memoryBits]
  omega

end Sys2Proof.Machine
end

