-- ==== Sys2Proof/Tests/Slice0.lean ====
section
/-! SUPPORT. Smoke tests of Instr.wellFormed, one-step tests with values from the spec's worked examples, and for every
statement with hypotheses a state and operands that meet them, clause by clause. -/

namespace Sys2Proof.Tests

open Sys2Proof Sys2Proof.Machine

/- Each test is evaluated by the kernel in one theorem; +kernel is avoided, because it makes the tests wait for one
another in a thread each. -/
set_option maxRecDepth 20000

/-- One reading a bit time over `bytes` bytes, all alike. -/
def readings (bytes : Nat) (level : Int) : List Int := List.replicate (8 * bytes) level

/-! ### Ill-formed terms are refused -/

theorem test_wf_readTooLong : (Instr.configReadDone 0 (List.replicate 49 0)).wellFormed = false := by decide
theorem test_wf_preambleUnit : (Instr.preambleDetected 0 .mid 0x1E).wellFormed = false := by decide
theorem test_wf_trainingIsNoEnd : (Instr.preambleEndNoFrame 0 0xAA).wellFormed = false := by decide
theorem test_wf_carryLength :
    (Instr.carryReceived 0 ⟨.upward, 0, 9, 5, 6, 7, 8, 9, 2, 0⟩ [1] 0 (readings 15 0)).wellFormed = false := by decide
theorem test_wf_surveyLength : (Instr.surveyReceived 0 ⟨7, 0, 2, 0⟩ [0] 0 (readings 8 0)).wellFormed = false := by decide
/-- One reading a bit time: none, or the readings of a frame one byte longer, fit no frame. -/
theorem test_wf_readings : (∀ l ∈ [[], readings 13 0], (Instr.beaconReceived 0 ⟨0, 10, 7, 0, 0, 0, 0⟩ 0 l).wellFormed = false)
    ∧ (∀ l ∈ [[], readings 15 0],
      (Instr.carryReceived 0 ⟨.upward, 0, 9, 5, 6, 7, 8, 9, 0, 0⟩ [] 0 l).wellFormed = false)
    ∧ (∀ l ∈ [[], readings 9 0], (Instr.hushReceived 0 ⟨0, 5, 6, 7⟩ 0 l).wellFormed = false)
    ∧ (∀ l ∈ [[], readings 8 0], (Instr.surveyReceived 0 ⟨7, 0, 0, 0⟩ [] 0 l).wellFormed = false)
    ∧ (Instr.beaconReceived 0 ⟨0, 10, 7, 0, 0, 0, 0⟩ 0 (readings 12 0)).wellFormed = true := by decide

/-- A loss ends with the eighth bit time below sensitivity: seven are none, and a ninth comes after it. -/
theorem test_wf_loss : (Instr.frameLost ⟨0, List.replicate 7 (-1)⟩).wellFormed = false
    ∧ (Instr.frameLost ⟨0, List.replicate 9 (-1)⟩).wellFormed = false
    ∧ (Instr.frameLost ⟨0, readings 126 0 ++ readings 1 (-1)⟩).wellFormed = false
    ∧ (Instr.frameLost ⟨0, readings 2 0 ++ readings 1 (-1)⟩).wellFormed = true := by decide

theorem test_wf_configureLength : (Instr.configure 0 [1, 2]).wellFormed = false := by decide
theorem test_wf_submitLength : (Instr.submit 0 0 0 1 1 (List.replicate 256 0)).wellFormed = false := by
  decide
theorem test_wf_badCommandIsUnknown : (Instr.badCommand 0 0x7E).wellFormed = false := by decide
theorem test_wf_earlyEnd : (Instr.transactionEndedEarly 0 64).wellFormed = false := by decide

/-! ### States and frames the tests share -/

/-- The state an outcome ends in. -/
def ended : Host.Outcome State Fault Refusal → State
  | .next t => t
  | .fault _ => State.reset
  | .refused _ => State.reset

/-- A lamp of address 3125 and zone 12 at the defaults. -/
def lampRecord : Record := { Record.default with node := 3125, zone1 := 12 }

/-- The lamp RUNNING at 1000 ms, idle, every source unmasked. -/
def lamp : State :=
  { State.reset with
    now := 96000, station := .running, loader := .idle, record := some lampRecord, rx := .searching, jitter := 0x0C35
    beacon := .waiting 5000, masks := 0xFFF, ranks := #v[41, 4095, 4095, 4095] }

/-- The lamp receiving a frame. -/
def lampRx : State := { lamp with rx := .receiving .mid }

/-- An anchor of index 0, receiving. -/
def anchorRx : State :=
  { lampRx with record := some { lampRecord with role := .anchor }, ranks := #v[0, 4095, 4095, 4095] }

/-- The lamp with an attempt of `o` in a phase that is over. -/
def lampTx (o : Owner) (p : Phase) : State :=
  { lamp with
    tx := some ⟨o, .slow, p, 96000⟩
    rx := match p with
      | .assessing => .searching
      | _ => .off }

/-- A 20-byte UPWARD relay at hold index 0, its deadline at 1000 ms. -/
def relay (st : HoldState) : Hold :=
  { ident := ⟨2210, 311⟩, goal := .upward 0, dest := 65535, hops := 8, senderRank := some 57, length := 20
    chain := [0, 1], state := st, deadline := 1000, attempts := 1, defers := 0, transmitRank := some 41, slot := none }

/-- A state with one hold entry and its PENDING seen entry. -/
def holding (s : State) (e : Hold) : State :=
  { s with
    hold := setAt s.hold 0 (some e), free := s.free.drop e.chain.length
    seen := [⟨e.ident, e.goal, .pending, 2, e.senderRank, 0⟩] }

/-- Twenty payload bytes. -/
def bytes20 : List Byte := (List.range 20).map fun i => BitVec.ofNat 8 (i + 1)

/-- A CARRY of (2210, 311), UPWARD to anchor 0, from 812 of rank `r`. -/
def up (r : Rank) : CarryHeader := ⟨.upward, 0, 9, 2210, 311, 812, r, 65535, 20, 0⟩

/-- A CARRY of (2210, 311), SPREAD to a zone and a dest node. -/
def spread (zone : Byte) (dest : Address) : CarryHeader := ⟨.spread, zone, 6, 2210, 311, 812, 4095, dest, 20, 0⟩

/-- The check bits of a CARRY with the payload of these tests. -/
def checkOf (h : CarryHeader) : BitVec 16 := frameCheck (carryBits h ++ payloadBits bytes20)

/-- A BEACON from 812. -/
def beacon812 (serial : BitVec 8) : BeaconHeader := ⟨serial, 10, 812, 8, 4095, 4095, 4095⟩

/-- A neighbour entry of 812. -/
def entry812 (st : Standing) : Neighbour :=
  { address := 812, standing := st, history := [.heard, .missed, .heard], heardStreak := 2, missStreak := 0
    missesNoted := 0, marginAvg := 20, ranks := #v[8, 4095, 4095, 4095], period := 10, serial := 45, due := 900 }

/-- A HUSH of anchor 0 for (2210, 311) from 900, and its check. -/
def hush0 : HushHeader := ⟨0, 2210, 311, 900⟩

/-! ### Values from the spec's worked examples -/

theorem test_draws : jitterStep 0x0C35 = 0xB21A ∧ jitterStep 0xB21A = 0x590D ∧ jitterStep 0x590D = 0x9886
    ∧ jitterStep 0x9886 = 0x4C43 := by decide

/-- The check value of the polynomial with all-ones start over the nine digits is 29B1 hex. -/
theorem test_frameCheck : frameCheck (payloadBits [0x31, 0x32, 0x33, 0x34, 0x35, 0x36, 0x37, 0x38, 0x39]) = 0x29B1 := by
  decide

/-- A beacon of serial 12 hex, period 10, sender 3125 and ranks 41, 4095, 4095, 4095, its bytes written out from R3. -/
theorem test_frameBytes :
    let f := frameBytes (beaconBits ⟨0x12, 10, 3125, 41, 4095, 4095, 4095⟩) []
    f.take 10 = [0x04, 0x8A, 0x0C, 0x35, 0x02, 0x9F, 0xFF, 0xFF, 0xFF, 0xFF] ∧ f.length = 12
      ∧ (f.getD 10 0 ++ f.getD 11 0 : BitVec 16) = frameCheck (payloadBits (f.take 10)) := by decide

theorem test_linkCosts : [255, 240, 160, 80, 64, 48, 32, 16, 0].map linkCost = [8, 9, 16, 24, 25, 27, 28, 30, 31] := by
  decide

theorem test_holdOffTerms : [1, 8, 16, 32, 64, 99].map (progressTerm 64) = [63, 56, 48, 32, 0, 0]
    ∧ progressTerm 255 8 = 223 ∧ progressTerm 255 32 = 127 ∧ echoWait lampRecord = 107 := by decide

/-- Readings of 30.5, 28 and 25 dB have the mean 27.83 dB, margin 27; below sensitivity 0; above 63 dB 63 (R11). -/
theorem test_margins : marginOf [30500, 28000, 25000] = 27 ∧ marginOf [-2000, -1] = 0 ∧ marginOf [63000] = 63
    ∧ marginOf [62999] = 62 ∧ marginOf [90000, 64000] = 63 := by decide

/-- One transaction of each command byte, its bytes written out from R162's table. -/
theorem test_decodeTransaction :
    [[0x01], [0x11, 2], [0x20, 8], [0x21], [0x30], [0x31, 0x01, 0x02], [0x32, 0x08, 0x03, 0xE4, 0x00, 0x04], [0x40],
      [0x41, 1]].map (decodeTransaction 5)
    = [some (.status 5), some (.originStatus 5 2), some (.fetch 5 8), some (.release 5), some (.readEvents 5),
      some (.clearEvents 5 0x0102), some (.setEvents 5 0x0803 0xE4 0x0004), some (.readTable 5), some (.readStats 5 1)]
    ∧ [[0x50], [0x51], [0x60, 0x00, 0x06, 0x00, 0xC8, 2, 20], [0x61], [0x62, 0], [0x7E], [0x7F],
      [0x10, 1, 12, 0xFF, 0xFE, 3, 2, 0xAB, 0xCD]].map (decodeTransaction 5)
    = [some (.silence 5), some (.resume 5), some (.survey 5 6 200 2 20), some (.stopSurvey 5), some (.readSurvey 5 0),
      some (.restart 5), some (.badCommand 5 0x7F), some (.submit 5 1 12 0xFFFE 3 [0xAB, 0xCD])] := by decide

theorem test_decodeTransaction_configure :
    decodeTransaction 5 (0x02 :: (List.range 47).map (BitVec.ofNat 8)) = some (.configure 5 ((List.range 47).map (BitVec.ofNat 8)))
      ∧ decodeTransaction 5 (0x02 :: List.replicate 46 0) = none
      ∧ decodeTransaction 5 [0x10, 1, 12, 0xFF, 0xFE, 3, 2, 0xAB] = none ∧ decodeTransaction 5 [0x10, 1, 12] = none := by
  decide

/-- A FETCH of 8 ended after 5 payload bytes, and an ORIGIN_STATUS that loses its argument (R126, R161). -/
theorem test_transactionCommands :
    transactionCommands 5 9 (0x20 :: 8 :: List.replicate 16 0) = [.fetch 5 8, .transactionEndedEarly 9 5]
      ∧ transactionCommands 5 9 (0x20 :: 8 :: List.replicate 19 0) = [.fetch 5 8]
      ∧ transactionCommands 5 9 [0x11] = [.lselRiseAbort 9] := by decide

/-- The edges of LCLK that clock bits in, LCLK idle low or idle high. -/
def clockLow (bits : List Bool) : List LampEdge := bits.flatMap fun b => [.rise b, .fall]
def clockHigh (bits : List Bool) : List LampEdge := bits.flatMap fun b => [.fall, .rise b]

/-- LDO of a RELEASE on an empty ring, as it stands at each rising edge: 00 hex under the command byte, then EMPTY, then
00 hex, whether LCLK idles low or high (R161). -/
theorem test_ldo :
    let u := ended (exec (.release 0) lamp)
    let ldi := payloadBits [0x21, 0, 0]
    (List.range 24).map (fun k => u.ldo false (clockLow (ldi.take k))) = (payloadBits [0x00, 0x08, 0x00]).map some
      ∧ (List.range 24).map (fun k => u.ldo false (clockHigh (ldi.take k) ++ [.fall]))
        = (payloadBits [0x00, 0x08, 0x00]).map some
      ∧ u.ldo true (clockLow ldi) = none := by decide

/-- EMPTY's fourth zero stays through the rising edge, and its one comes on the falling edge (R161). -/
theorem test_ldo_edges :
    let u := ended (exec (.release 0) lamp)
    let before := clockLow ((payloadBits [0x21, 0]).take 11)
    u.ldo false before = some false ∧ u.ldo false (before ++ [.rise true]) = some false
      ∧ u.ldo false (before ++ [.rise true, .fall]) = some true
      ∧ (lamp.transact 5 9 (clockLow (payloadBits [0x21, 0]))).pending = [.release 5] := by decide

/-- An entry of the worked example of 3.2. -/
def worked (st : Standing) (heard margin : Nat) (r0 r1 r2 r3 : Rank) : Option Neighbour :=
  some { entry812 st with history := List.replicate heard .heard, marginAvg := margin, ranks := #v[r0, r1, r2, r3] }

/-- The worked ranks of 3.2: neighbours A to F give (24, 56, 208, 4095). -/
theorem test_ranksOfSection32 :
    (State.formedRanks { lamp with table := Vector.ofFn fun i : Fin 32 => match i.1 with
      | 0 => worked .up 16 30 16 4095 200 4095
      | 1 => worked .silent 10 12 8 40 4095 4095
      | 2 => worked .up 4 9 0 4095 4095 4095
      | 3 => worked .candidate 1 28 0 0 0 0
      | 4 => worked .up 16 4 8 8 8 8
      | 5 => worked .silent 2 20 4095 4095 4095 4080
      | _ => none }) = #v[24, 56, 208, 4095] := by decide

/-- Station G of 11.5: six clamps, anchor index 3, HOLD_MIN 1, power 150, SPARSE_BELOW 11, START_RATE MID. -/
def bytesG (k : Nat) : Byte :=
  [0xC3, 0x04, 0xB7, 1, 6, 0, 0, 0, 0, 10, 3, 4, 6, 0, 64, 7, 3, 2, 20, 2, 10, 4, 2, 1, 3, 2].getD k
    (([200, 150, 8, 12, 12, 0x08, 0x03, 0xFF, 0, 0, 3, 1] : List Byte).getD (k - 26) 0)

theorem test_stationG : clampCount bytesG = 6 ∧ (recordOf bytesG).anchorIndex = 3 ∧ (recordOf bytesG).holdMin = 1
    ∧ (recordOf bytesG).upshiftAfter = 4 ∧ (recordOf bytesG).powerFloor = 150 ∧ (recordOf bytesG).sparseBelow = 11
    ∧ (recordOf bytesG).startRate = .mid ∧ (recordOf bytesG).node = 1207 := by decide

theorem test_configReadDone_stationG :
    let u := ended (exec (.configReadDone 400 ((List.range 48).map bytesG)) { State.reset with loader := .reading })
    u.station = .running ∧ u.power = 150 ∧ u.rate = .mid ∧ u.ranks = #v[4095, 4095, 4095, 0] ∧ u.statuses = 0x800 := by
  decide

/-- The restarted neighbour of 2.8: a gap of 211 leaves one HEARD and 15 MISSED marks, and the entry stays UP. -/
theorem test_beacon_restartedNeighbour :
    let s := { lampRx with table := setAt lampRx.table 5 (some (entry812 .up)) }
    let u := ended (exec (.beaconReceived 0 (beacon812 0) (frameCheck (beaconBits (beacon812 0))) (readings 12 22000)) s)
    u.table[5].map (fun n => (n.history, n.standing, n.marginAvg, n.due))
      = some (.heard :: List.replicate 15 .missed, .up, 20, 16000) := by decide

/-- Station X of 5.3: P = 16, q = 0 here, draw 2 in 0..7: H = 4 + 48 + 2. -/
theorem test_carry_holdOff :
    (ended (exec (.carryReceived 0 (up 57) bytes20 (checkOf (up 57)) (readings 34 20000)) lampRx)).hold[0].map
      (fun e => (e.deadline, e.hops, e.chain, e.senderRank)) = some (1054, 8, [0, 1], some 57) := by decide

/-- A SPREAD message for zone 12 is held and delivered in separate chains, relay first (7.8). -/
theorem test_carry_spreadTwice :
    let u := ended (exec (.carryReceived 0 (spread 12 65535) bytes20 (checkOf (spread 12 65535)) (readings 34 20000)) lampRx)
    u.hold[0].map (fun e => e.chain) = some [0, 1] ∧ u.ring.map (fun d => d.chain) = [[2, 3]] ∧ u.free.length = 92
      ∧ chainBytes u.mem [2, 3] 20 = bytes20 ∧ u.statuses = 1 := by decide

theorem test_carry_copySuppresses :
    let u := ended (exec (.carryReceived 0 (up 25) bytes20 (checkOf (up 25)) (readings 34 20000)) (holding lampRx (relay .holding)))
    u.hold[0] = none ∧ u.stats.suppressed = 1 ∧ u.seen.map (fun x => (x.status, x.extraCopies)) = [(.suppressed, 3)] := by
  decide

theorem test_hush_isTheEcho :
    let u := ended (exec (.hushReceived 0 hush0 (frameCheck (hushBits hush0)) (readings 8 9000)) (holding lampRx (relay .awaitingEcho)))
    u.hold[0] = none ∧ u.stats.relayed = 1 ∧ u.echoed = 1 ∧ u.free.length = 96 := by decide

/-- The beacon worked in 3.4: sent at 1050 ms, draw 13 in 0..255, due at 11063 (generator at B21A). -/
theorem test_bodyEnd_beacon :
    let s := { lampTx .beacon .body with beacon := .inAttempt 11026, jitter := 0xB21A, now := 96 * 1050 }
    (ended (exec (.bodyEnd 0) s)).beacon = .waiting 11063 ∧ (ended (exec (.bodyEnd 0) s)).beaconSerial = 1 := by
  decide

/-- A beacon lasts 12 bytes of 8 SLOW bits after its preamble (R7). -/
theorem test_preambleSent_beacon :
    let s := { lampTx .beacon .preamble with beacon := .inAttempt 11026 }
    (ended (exec (.preambleSent 0) s)).tx = some ⟨.beacon, .slow, .body, 96000 + 12 * 8 * 16⟩ := by decide

theorem test_submit_firstSerial :
    let u := ended (exec (.submit 0 0 0 65535 0 bytes20) { lamp with jitter := 0xB21A })
    u.response = [0, 0, 0x09, 0x0D] ∧ u.serial = some 2318 ∧ u.slots[0] = .pending 2317
      ∧ u.hold[0].map (fun e => e.hops) = some 1 := by decide

/-- The FETCH of 7.8: 8 bytes from cursor 16 of a 20-byte payload leave the cursor at 4. -/
theorem test_fetch_wraps :
    let s := { lamp with ring := [⟨⟨5, 6⟩, .spread 12, 812, 3, 20, [22, 23]⟩], cursor := 16, mem := fillChain [] [22, 23] bytes20 }
    (ended (exec (.fetch 0 8) s)).cursor = 4
      ∧ (ended (exec (.fetch 0 8) s)).response.drop 11 = [17, 18, 19, 20, 1, 2, 3, 4] := by decide

theorem test_survey_tally :
    (tallied (some ⟨4410, 2, 0, 1, 0, 29⟩) ⟨4410, 3, 20, 0⟩ 31) = ⟨4410, 3, 0, 3, 1, 29⟩ := by decide

/-! ### What the hypotheses of the statements need -/

/-- A property of every entry present, from a check of every place. -/
theorem every {α : Type} {n : Nat} {v : Vector (Option α) n} {P : Fin n → α → Prop} [∀ i x, Decidable (P i x)]
    (h : ∀ i : Fin n, (v[i]).all (fun x => decide (P i x)) = true) : ∀ (i : Fin n) (x : α), v[i] = some x → P i x := by
  intro i x hx
  have := h i
  rw [hx] at this
  simpa using this

theorem lampRecord_inRange : lampRecord.inRange := by unfold Record.inRange; decide

theorem start_of {s : State} (h1 : s.station = .running ∨ s.station = .silent) (h2 : s.record = some lampRecord)
    (h3 : s.loader = .idle) (h4 : s.alternation = none) : StartLaw s := by
  unfold StartLaw
  rcases h1 with h1 | h1 <;> rw [h1] <;> exact ⟨⟨_, h2, lampRecord_inRange⟩, h3, h4⟩

/-- A state in which no beacon is in attempt and whose other owners are checked place by place. -/
theorem owner_of {s : State} (h0 : StartLaw s) (hb : ∀ r, s.beacon ≠ .inAttempt r)
    (h1 : (s.tx.any fun a => a.owner = .beacon) = false)
    (h2 : (s.hushHead = .inAttempt ↔ s.tx.any fun a => a.owner = .hush) ∧ (s.hushQueue = [] → s.hushHead = .standing))
    (h3 : s.burst = .inAttempt ∨ s.burst = .ending ↔ s.tx.any fun a => a.owner = .survey)
    (h4 : s.burst = .ending → s.tx.any Attempt.pastAssessing)
    (h5 : ∀ i : Fin 16, (s.tx.any fun a => a.owner = .hold i) = true → s.hold[i].isSome)
    (h6 : ∀ i : Fin 16, (s.hold[i]).all (fun e => decide (
      (e.state = .assessing ↔ s.tx.any fun a => a.owner = .hold i ∧ a.phase = .assessing)
        ∧ (e.state = .sending ↔ s.tx.any fun a => a.owner = .hold i ∧ a.pastAssessing))) = true) : OwnerLaw s :=
  ⟨h0, ⟨fun ⟨r, h⟩ => absurd h (hb r), fun h => by rw [h1] at h; exact absurd h (by simp)⟩, h2, h3, h4,
    fun a ha i hi => h5 i (by simp [ha, hi]), every h6⟩

theorem slots_of {s : State} (h1 : ∀ k : Fin 4, s.slots[k] = .free) (h2 : ∀ e ∈ s.holds, e.slot = none) : SlotLaw s :=
  ⟨fun k v h => absurd h (by rw [h1 k]; simp), fun e he k h => absurd h (by rw [h2 e he]; simp)⟩

/-- The lamp with the relay of these tests in a state of its own, receiving. -/
def relaying (st : HoldState) : State := holding lampRx (relay st)

theorem relaying_seen : ∀ st ∈ [HoldState.holding, .ready, .assessing, .sending, .awaitingEcho],
    SeenLaw (relaying st) ∧ SeenLaw (holding lamp (relay st)) := by unfold SeenLaw; decide

theorem relaying_slots (st : HoldState) (s : State) (h : s = lampRx ∨ s = lamp) : SlotLaw (holding s (relay st)) := by
  rcases h with rfl | rfl <;> exact slots_of (by cases st <;> decide) (by cases st <;> decide)

/-! ### Witnesses: the queue, start-up, configuration -/

theorem test_witness_queue : ({ lamp with pending := [.status 0] } : State).pending = .status 0 :: [] ∧ lamp.pending = [] :=
  ⟨rfl, rfl⟩

theorem test_witness_restart : lamp.station ≠ .loading ∧ lamp.record = some lampRecord
    ∧ ({ lamp with station := .awaitingConfig, record := none } : State).record = none := by decide

theorem test_witness_load : State.reset.loader = .held ∧ State.reset.station = .loading
    ∧ ({ State.reset with loader := .polling 0 } : State).loader = .polling 0 ∧ (0 : Byte).getLsbD 0 = false
    ∧ (1 : Byte).getLsbD 0 = true ∧ max 0 2400 / 96 ≤ 0 + 25 ∧ 0 + 25 ≤ max 0 2400 / 96 := by decide

/-- A loader polling, and one reading. -/
def polls : State := { State.reset with loader := .polling 0 }
def reads : State := { State.reset with loader := .reading }

/-- The pins over a status read: CMSEL low for 16 bits and high after them, CMCLK up once a bit, CMDO 05 hex and then no
bit; between transactions and while idle CMSEL is high (R182). -/
theorem test_memoryPins :
    (List.range 34).map (fun k => polls.memorySelected (some k)) = List.replicate 32 true ++ [false, false]
      ∧ (List.range 34).map (fun k => polls.memoryClock (some k))
        = (List.replicate 16 [false, true]).flatten ++ [false, false]
      ∧ (List.range 18).map (fun k => polls.memoryData (some k))
        = ((payloadBits [0x05]).flatMap fun b => [some b, some b]) ++ [none, none]
      ∧ (List.range 24).map (fun k => reads.memoryData (some (2 * k))) = (payloadBits [0x03, 0x00, 0x00]).map some
      ∧ reads.memorySelected (some 815) = true ∧ reads.memorySelected (some 816) = false
      ∧ polls.memorySelected none = false ∧ lamp.memorySelected (some 0) = false ∧ lamp.memoryClock (some 1) = false := by
  decide

/-- An absent memory reads FF hex, a ready one bit 0 clear, and 15 bits are no transaction (R182). -/
theorem test_memoryCommand_poll :
    polls.memoryCommand 5 (List.replicate 16 none) = some (.configStatusPoll 5 0xFF)
      ∧ polls.memoryCommand 5 (List.replicate 8 none ++ (payloadBits [0x0A]).map some) = some (.configStatusPoll 5 0x0A)
      ∧ polls.memoryCommand 5 (List.replicate 15 none) = none ∧ lamp.memoryCommand 5 [] = none := by decide

/-- A memory that stops driving after two bytes reads FF hex for the other 46 (R182). -/
theorem test_memoryCommand_read :
    reads.memoryCommand 5 (List.replicate 24 none ++ (payloadBits [0xC3, 0x0C]).map some ++ List.replicate 368 none)
      = some (.configReadDone 5 (0xC3 :: 0x0C :: List.replicate 46 0xFF)) := by decide

/-- The bits that the statement of the memory pins asks for. -/
theorem test_witness_memoryBits :
    (let cmdi := List.replicate 8 none ++ (payloadBits [0x0A]).map some
     cmdi.length = 16 ∧ ∀ k, k < 8 → cmdi[8 + k]?.map cmdiLevel = some ((0x0A : Byte).getMsbD k))
    ∧ (let cmdi : List (Option Bool) := List.replicate 408 none
       cmdi.length = 408 ∧ ∀ k, k < 384 → cmdi[24 + k]?.map cmdiLevel = some true) := by decide

theorem test_witness_read : ({ State.reset with loader := .reading } : State).loader = .reading
    ∧ ([] : List Byte).getD 0 0xFF ≠ 0xC3#8 ∧ ([0xC3, 0, 0] : List Byte).getD 0 0xFF = 0xC3#8
    ∧ noStation (([0xC3, 0, 0] : List Byte).getD 1 0xFF ++ ([0xC3, 0, 0] : List Byte).getD 2 0xFF) = true
    ∧ noStation (([0xC3, 0, 1] : List Byte).getD 1 0xFF ++ ([0xC3, 0, 1] : List Byte).getD 2 0xFF) = false := by decide

theorem test_witness_configure : ({ State.reset with station := .awaitingConfig } : State).station = .awaitingConfig
    ∧ (List.replicate 47 (0 : Byte)).length = 47 ∧ ([] : List Byte).length < 47
    ∧ noStation ((List.replicate 47 (0 : Byte)).getD 0 0 ++ (List.replicate 47 (0 : Byte)).getD 1 0) = true
    ∧ noStation ((List.replicate 47 (1 : Byte)).getD 0 0 ++ (List.replicate 47 (1 : Byte)).getD 1 0) = false := by
  decide

/-- A record with no clamp: every byte of station G put right. -/
def bytesOk (k : Nat) : Byte :=
  [0xC3, 0x0C, 0x35, 0, 0, 12, 0, 0, 0, 10, 3, 4, 6, 4, 64, 7, 3, 2, 20, 2, 10, 4, 1, 2, 3, 12].getD k
    (([64, 255, 8, 12, 4, 0x08, 0x03, 0xFF, 0, 0, 3, 1] : List Byte).getD (k - 26) 0)

theorem test_witness_record : clampCount bytesOk = 0 ∧ noStation (bytesOk 1 ++ bytesOk 2) = false
    ∧ recordOf bytesOk = lampRecord := by decide

/-- RESTART clears a set NEIGHBOURS and a latched BUFFER_LOW; a record with REACH0 unmasked in LEVEL sets that at once. -/
theorem test_restart_statuses :
    let s := { lamp with statuses := 0x084, latches := 0x004 }
    let reachLevel := { lampRecord with eventMasks := 0x80B, triggerModes := 0xFC }
    (ended (exec (.restart 0) s)).statuses = 0
      ∧ (ended (exec (.restart 0) { s with record := some reachLevel })).statuses = 0x008 := by decide

/-- An acceptance keeps an unmasked CONFIG_FAULT of a failed load, and loses a masked one (R184). -/
theorem test_accept_statuses :
    let s := { State.reset with loader := .reading, statuses := 0x800 }
    let u (masks : Byte) := ended (exec (.configReadDone 0 ((List.range 48).map fun k =>
      if k = 31 then masks else bytesOk k)) s)
    (u 0x08).statuses = 0x800 ∧ (u 0x00).statuses = 0 := by decide

/-! ### Witnesses: the receiver and the table -/

/-- Bits on the air, each with its level. -/
def onAir (bits : List Bool) (levels : List Int) : List (Bool × Int) := bits.zip levels

/-- A HUSH from 900 collected bit by bit at MID from 96000, its six header bytes written out from R5. -/
theorem test_collect_hush :
    hushBits hush0 = payloadBits [0x80, 0x8A, 0x21, 0x37, 0x03, 0x84]
      ∧ (lampRx.hear 96000 (onAir (hushBits hush0 ++ msbBits 0x1234#16) (readings 8 9000))).pending
        = [.hushReceived (96000 + 64 * 4) hush0 0x1234 (readings 8 9000)]
      ∧ (lamp.hear 96000 (onAir (hushBits hush0) (readings 6 9000))).pending = [] := by decide

/-- An empty CARRY brings its header at bit 96 and itself at bit 112. -/
theorem test_collect_carry :
    let h := { up 57 with length := 0 }
    collect 0 .fast [] (onAir (carryBits h ++ msbBits 0x1234#16 ++ [true]) (readings 15 9000))
      = [.carryHeaderComplete 96 h, .carryReceived 112 h [] 0x1234 (readings 14 9000)] := by decide

/-- A malformed CARRY is collected no further than its header. -/
theorem test_collect_malformed :
    let h := { up 57 with length := 113 }
    collect 0 .fast [] (onAir (carryBits h ++ msbBits 0x1234#16) (readings 14 9000)) = [.carryHeaderComplete 96 h] := by
  decide

/-- A beacon whose level falls below sensitivity after 20 bits is lost at bit 28. -/
theorem test_collect_lost :
    let levels := List.replicate 20 9000 ++ List.replicate 76 (-1)
    collect 0 .slow [] (onAir (beaconBits (beacon812 46) ++ msbBits 0x1234#16) levels)
      = [.frameLost ⟨28 * 16, levels.take 28⟩] := by decide

/-- A SURVEY of two fill bytes ends after 72 bits, and its bits are the row's own. -/
theorem test_airEvent_survey :
    let c : Instr := .surveyReceived 5 ⟨4410, 3, 2, 0⟩ [0xA5, 0x00] 0x1234 (readings 9 9000)
    let bits := surveyBits ⟨4410, 3, 2, 0⟩ ++ payloadBits [0xA5, 0x00] ++ msbBits 0x1234#16
    c.wellFormed = true ∧ Claim.onAir c = some (bits, readings 9 9000)
      ∧ airEvent 5 (onAir bits (readings 9 9000)) = some c ∧ airEvent 5 ((onAir bits (readings 9 9000)).take 71) = none := by
  decide

/-- A term whose payload is not as long as its header states is malformed. -/
theorem test_received_otherLength :
    (ended (exec (.carryReceived 0 { up 57 with length := 19 } bytes20 (checkOf { up 57 with length := 19 })
      (readings 34 20000)) lampRx)).stats.framesBad = 1 := by decide

/-- Seven bit times below sensitivity lose no frame, eight do, wherever they stand before the last check bit (R10). -/
theorem test_loss : lostLevel (readings 1 (-1)) = true ∧ lostLevel (List.replicate 7 (-1)) = false
    ∧ lostLevel (List.replicate 7 (-1) ++ [0] ++ List.replicate 7 (-1)) = false
    ∧ lostLevel (readings 2 5 ++ readings 1 (-1) ++ [5]) = true
    ∧ lostBeforeEnd (readings 2 5 ++ readings 1 (-1)) = false
    ∧ lostBeforeEnd (readings 2 5 ++ readings 1 (-1) ++ [5]) = true := by decide

theorem test_frameLost :
    let u (l : List Int) := ended (exec (.frameLost ⟨0, l⟩) lampRx)
    (u (readings 1 (-1))).stats.framesBad = 1 ∧ (u (readings 1 (-1))).rx = .searching
      ∧ u (readings 1 0) = lampRx := by decide

/-- A beacon heard below sensitivity throughout was lost, however good its check. -/
theorem test_received_lost :
    let u := ended (exec (.beaconReceived 0 (beacon812 46) (frameCheck (beaconBits (beacon812 46))) (readings 12 (-1))) lampRx)
    u.stats.framesBad = 1 ∧ u.stats.framesGood = 0 ∧ u.table = lampRx.table ∧ u.rx = .searching := by decide

theorem test_witness_loss : Claim.Below (readings 1 (-1)) 8 ∧ ¬Claim.Below (readings 1 (-1)) 7 :=
  ⟨⟨0, by decide, by decide⟩, fun ⟨_, h, _⟩ => by omega⟩

theorem test_witness_search : lamp.rx = .searching ∧ lamp.tx = none ∧ Claim.Quiet lamp ∧ lamp.settle = lamp
    ∧ ({ lamp with rx := .awaiting .mid } : State).rx = .awaiting .mid ∧ (0 : Byte) ≠ 0xAA ∧ (0 : Byte) ≠ startMarkOf .mid := by
  unfold Claim.Quiet; decide

theorem test_witness_discards : lampRx.rx = .receiving .mid ∧ 112 < ({ up 57 with length := 113 } : CarryHeader).length.toNat
    ∧ ({ up 57 with target := 4 } : CarryHeader).target.extractLsb' 2 6 ≠ 0#6 ∧ (up 57).length.toNat ≤ 112
    ∧ (up 57).target.extractLsb' 2 6 = 0#6 ∧ (0 : BitVec 16) ≠ frameCheck (beaconBits (beacon812 0))
    ∧ beaconBad { beacon812 0 with sender := 3125 } (frameCheck (beaconBits { beacon812 0 with sender := 3125 })) (readings 12 20000) = false
    ∧ carryBad { up 57 with sender := 3125 } bytes20 (checkOf { up 57 with sender := 3125 }) (readings 34 20000) = false
    ∧ hushBad { hush0 with sender := 3125 } (frameCheck (hushBits { hush0 with sender := 3125 })) (readings 8 20000) = false
    ∧ surveyBad ⟨3125, 0, 0, 0⟩ [] (frameCheck (surveyBits ⟨3125, 0, 0, 0⟩ ++ payloadBits [])) (readings 7 20000) = false
    ∧ lampRx.own = 3125 := by decide

/-- A full table of other stations, all in one standing. -/
def fullTable (st : Standing) : State :=
  { lampRx with table := Vector.ofFn fun i : Fin 32 => some { entry812 st with address := BitVec.ofNat 16 (1000 + i.1) } }

theorem test_witness_unknownBeacon : beaconBad (beacon812 46) (frameCheck (beaconBits (beacon812 46))) (readings 12 20000) = false
    ∧ (beacon812 46).sender ≠ lampRx.own ∧ Claim.Quiet lampRx ∧ lampRx.table[(0 : Fin 32)] = none
    ∧ (∀ j : Fin 32, j < 0 → lampRx.table[j].isSome) ∧ Claim.Quiet (fullTable .up) ∧ Claim.Quiet (fullTable .silent)
    ∧ (∀ j : Fin 32, (fullTable .silent).table[j].isSome) := by unfold Claim.Quiet; decide

theorem test_witness_unknownSenders :
    (∀ (j : Fin 32) (n : Neighbour), lampRx.table[j] = some n → n.address ≠ 812)
    ∧ (∀ (j : Fin 32) (n : Neighbour), (fullTable .silent).table[j] = some n → n.address ≠ 812 ∧ n.standing ≠ .up
      ∧ linkQuality (entry812 .silent).history ≤ linkQuality n.history ∧ (j < 0 → False))
    ∧ ∀ (j : Fin 32) (n : Neighbour), (fullTable .up).table[j] = some n → n.address ≠ 812 ∧ n.standing = .up :=
  ⟨every (by decide), every (by decide), every (by decide)⟩

/-- The lamp that knows 812 in slot 5. -/
def knows812 (st : Standing) : State := { lampRx with table := setAt lampRx.table 5 (some (entry812 st)) }

theorem test_witness_knownSender : (knows812 .up).table[(5 : Fin 32)] = some (entry812 .up) ∧ Claim.Quiet (knows812 .up)
    ∧ (beacon812 45).serial = (entry812 .up).serial ∧ (beacon812 46).serial ≠ (entry812 .up).serial
    ∧ beaconBad (beacon812 45) (frameCheck (beaconBits (beacon812 45))) (readings 12 20000) = false
    ∧ (entry812 .up).due ≤ max (knows812 .up).now 0 / 96 := by unfold Claim.Quiet; decide

/-- The removal clause: a SILENT entry whose next miss is the DOWN_AFTERth goes, one a miss short stays (R33, R34). -/
theorem test_witness_removal :
    let n := { entry812 .silent with missStreak := 3 }
    lampRecord.downAfter = 4
      ∧ (ended (exec (.neighbourDueExpiry 0 5) { lamp with table := setAt lamp.table 5 (some n) })).table[5] = none
      ∧ (ended (exec (.neighbourDueExpiry 0 5) { lamp with table := setAt lamp.table 5 (some n) })).statuses = 0x088
      ∧ (ended (exec (.neighbourDueExpiry 0 5) { lamp with
          table := setAt lamp.table 5 (some { n with missStreak := 2 }) })).table[5].isSome := by decide

/-- A beacon that makes anchor 0 reachable tells REACH0 a gain; mode LOSS ignores it (R48, R168). -/
theorem test_witness_reach :
    let s := { knows812 .up with ranks := Vector.replicate 4 4095 }
    let c : Instr := .beaconReceived 0 (beacon812 46) (frameCheck (beaconBits (beacon812 46))) (readings 12 22000)
    (ended (exec c s)).statuses = 0x008 ∧ (ended (exec c { s with modes := 0xFD })).statuses = 0
      ∧ (ended (exec c (knows812 .candidate))).statuses = 0x080 := by decide

theorem test_witness_onlySender : ∀ (j : Fin 32) (m : Neighbour), j ≠ 5 → (knows812 .up).table[j] = some m → m.address ≠ 812 :=
  fun j m h hm => every (P := fun j n => j ≠ 5 → n.address ≠ 812) (by decide) j m hm h

theorem test_witness_otherFrames : carryBad (up 57) bytes20 (checkOf (up 57)) (readings 34 20000) = false ∧ (up 57).sender = 812
    ∧ hushBad { hush0 with sender := 812 } (frameCheck (hushBits { hush0 with sender := 812 })) (readings 8 20000) = false := by decide

/-! ### Witnesses: the relay engine, delivery, the anchor -/

theorem test_witness_firstCopy : Claim.FirstCopy lampRx (up 57) bytes20 (checkOf (up 57)) (readings 34 20000) :=
  ⟨⟨.mid, rfl⟩, by decide⟩

theorem test_witness_held : Claim.Quiet lampRx ∧ BlockLaw lampRx ∧ StoreForm lampRx
    ∧ (Claim.heard lampRx 0 812 (readings 34 20000)).forOwnIndex (carryGoal (up 57)) = false
    ∧ (Claim.heard lampRx 0 812 (readings 34 20000)).arrivalOf (up 57) = .held
    ∧ (Claim.heard lampRx 0 812 (readings 34 20000)).arrivalOf (spread 12 65535) = .held
    ∧ lampRx.hold[(0 : Fin 16)] = none ∧ ∀ j : Fin 16, j < 0 → lampRx.hold[j].isSome := by
  unfold Claim.Quiet BlockLaw StoreForm; decide

/-- Every reason of the arrival decision, each met by a state and a frame. -/
theorem test_witness_notHeld :
    lampRx.arrivalOf (spread 12 3125) = .addressedHere
    ∧ ({ lampRx with station := .silent } : State).arrivalOf (up 57) = .silenced
    ∧ lampRx.arrivalOf { up 57 with hops := 0 } = .hopLimit ∧ lampRx.arrivalOf (up 41) = .noProgress
    ∧ ({ lampRx with hold := Vector.replicate 16 (some (relay .holding)) } : State).arrivalOf (up 57) = .holdFull
    ∧ ({ lampRx with free := [0] } : State).arrivalOf (up 57) = .noBuffer
    ∧ (Claim.heard lampRx 0 812 (readings 34 20000)).arrivalOf (up 41) ≠ .held := by decide

/-- What fails the delivery test takes one chain when it is held and stores nothing when it is not; the bytes of another
block stay (R120). -/
theorem test_witness_noDelivery :
    let s := { lampRx with mem := fillChain [] [9] [1, 2, 3] }
    let u (h : CarryHeader) := ended (exec (.carryReceived 0 h bytes20 (checkOf h) (readings 34 20000)) s)
    s.deliveryTest (up 57) = false ∧ (u (up 57)).free = s.free.drop 2 ∧ (u (up 57)).ring = []
      ∧ Memory.read (u (up 57)).mem 145 = 2 ∧ Memory.read (u (up 57)).mem 1 = 2
      ∧ s.arrivalOf (up 41) ≠ .held ∧ (u (up 41)).free = s.free ∧ (u (up 41)).mem = s.mem := by decide

theorem test_witness_delivery : Claim.FirstCopy lampRx (spread 12 3125) bytes20 (checkOf (spread 12 3125)) (readings 34 20000) :=
  ⟨⟨.mid, rfl⟩, by decide⟩

theorem test_witness_deliveryRoom : lampRx.deliveryTest (spread 12 3125) = true
    ∧ (Claim.heard lampRx 0 812 (readings 34 20000)).arrivalOf (spread 12 3125) ≠ .held ∧ lampRx.ring.length < 8
    ∧ (20 + 15) / 16 ≤ lampRx.free.length
    ∧ 8 ≤ ({ lampRx with ring := List.replicate 8 ⟨⟨5, 6⟩, .spread 0, 812, 3, 0, []⟩ } : State).ring.length := by
  decide

/-- Held and delivered: the ring has room for both chains, for the relay chain alone, and no place (R81, R121). -/
theorem test_witness_heldAndDelivered : lampRx.deliveryTest (spread 12 65535) = true
    ∧ Claim.FirstCopy lampRx (spread 12 65535) bytes20 (checkOf (spread 12 65535)) (readings 34 20000) ∧ (2 + 2) ≤ lampRx.free.length
    ∧ (let u := ended (exec (.carryReceived 0 (spread 12 65535) bytes20 (checkOf (spread 12 65535)) (readings 34 20000))
          { lampRx with free := [4, 5, 6] })
       u.ring = [] ∧ u.free = [6] ∧ u.stats.deliveryOverflow = 1 ∧ u.hold[0].map (fun e => e.chain) = some [4, 5]) :=
  ⟨by decide, ⟨⟨.mid, rfl⟩, by decide⟩, by decide, by decide⟩

/-- The refused clause of an anchor's first copy, by a full ring and by too few blocks, and the full HUSH queue. -/
theorem test_witness_anchorRefuses :
    let full := { anchorRx with ring := List.replicate 8 ⟨⟨5, 6⟩, .spread 0, 812, 3, 0, []⟩ }
    let c : Instr := .carryReceived 0 (up 57) bytes20 (checkOf (up 57)) (readings 34 20000)
    8 ≤ full.ring.length ∧ (ended (exec c full)).stats.deliveryOverflow = 1 ∧ (ended (exec c full)).seen = []
      ∧ (ended (exec c { anchorRx with free := [3] })).stats.deliveryOverflow = 1
      ∧ (let u := ended (exec c { anchorRx with hushQueue := List.replicate 4 ⟨5, 6⟩, hushHead := .backoff 5000 })
         u.hushQueue.length = 4 ∧ u.stats.hushLost = 1 ∧ u.seen.map (fun x => x.hushCount) = [1]) := by decide

/-- A later copy at the anchor with hush count 1 draws a second HUSH; with hush count 2 it is ignored (R110). -/
theorem test_witness_secondHush :
    let s (n : Nat) := { anchorRx with seen := [⟨⟨2210, 311⟩, .upward 0, .delivered, 0, some 57, n⟩] }
    let c : Instr := .carryReceived 0 (up 57) bytes20 (checkOf (up 57)) (readings 34 20000)
    (ended (exec c (s 1))).seen.map (fun x => x.hushCount) = [2] ∧ (ended (exec c (s 1))).hushQueue = [⟨2210, 311⟩]
      ∧ (ended (exec c (s 2))).seen.map (fun x => x.hushCount) = [2] ∧ (ended (exec c (s 2))).hushQueue = [] := by decide

theorem test_witness_anchor : Claim.FirstCopy anchorRx (up 57) bytes20 (checkOf (up 57)) (readings 34 20000) ∧ Claim.Quiet anchorRx
    ∧ anchorRx.cfg.role = .anchor ∧ (up 57).target.toNat = anchorRx.cfg.anchorIndex.1 ∧ anchorRx.hushQueue.length < 4 :=
  ⟨⟨⟨.mid, rfl⟩, by decide⟩, by unfold Claim.Quiet; decide⟩

theorem test_witness_staleCopy : ({ up 57 with origin := 3125 } : CarryHeader).origin = lampRx.own
    ∧ carryBad { up 57 with origin := 3125 } bytes20 (checkOf { up 57 with origin := 3125 }) (readings 34 20000) = false
    ∧ lampRx.findSeen (carryIdent { up 57 with origin := 3125 }) = none ∧ Claim.Quiet lampRx := by
  unfold Claim.Quiet; decide

/-- The relay of these tests meets a copy in HOLDING, READY (behind another's attempt) and AWAITING_ECHO: one that ends
it, at the boundary, and one that does not. -/
theorem test_witness_copies : Claim.Quiet (relaying .holding) ∧ Claim.Quiet (relaying .awaitingEcho)
    ∧ Claim.Quiet { relaying .ready with tx := some ⟨.survey, .slow, .assessing, 96000⟩ }
    ∧ (relaying .holding).hold[(0 : Fin 16)] = some (relay .holding) ∧ (relay .holding).ident = carryIdent (up 41)
    ∧ (relay .holding).goal = carryGoal (up 41) ∧ ((relaying .holding).findSeen (carryIdent (up 41))).isSome
    ∧ (up 41).senderRank ≤ (Claim.heard (relaying .holding) 0 812 (readings 34 20000)).ranks[0]
    ∧ ¬(up 42).senderRank ≤ (Claim.heard (relaying .holding) 0 812 (readings 34 20000)).ranks[0]
    ∧ (up 40).senderRank < 41 ∧ ¬(up 41).senderRank < 41
    ∧ carryBad (up 41) bytes20 (checkOf (up 41)) (readings 34 20000) = false := by unfold Claim.Quiet; decide

/-- A copy whose target or discipline differs from its seen entry's is counted and judges no hold entry (R67). -/
theorem test_witness_otherGoal :
    let s := relaying .holding
    let h : CarryHeader := { up 0 with target := 1 }
    let u (h : CarryHeader) := ended (exec (.carryReceived 0 h bytes20 (checkOf h) (readings 34 20000)) s)
    Claim.Quiet s ∧ s.findSeen (carryIdent h) = some ⟨⟨2210, 311⟩, .upward 0, .pending, 2, some 57, 0⟩
      ∧ carryGoal h ≠ .upward 0 ∧ (u h).hold = s.hold ∧ (u h).seen.map (fun x => (x.extraCopies, x.bestRank)) = [(3, some 57)]
      ∧ (u (spread 12 65535)).hold = s.hold ∧ (u (spread 12 65535)).ring = [] := by
  unfold Claim.Quiet; decide

/-- The SPREAD_QUOTA clause at its boundary: the third extra copy suppresses, the second does not (R87). -/
theorem test_witness_spreadQuota :
    let e := { relay .holding with goal := .spread 12, senderRank := none, transmitRank := none }
    let s (n : Nat) := { holding lampRx e with seen := [⟨⟨2210, 311⟩, .spread 12, .pending, n, none, 0⟩] }
    let c : Instr := .carryReceived 0 (spread 12 65535) bytes20 (checkOf (spread 12 65535)) (readings 34 20000)
    lampRecord.spreadQuota = 3 ∧ SeenLaw (s 2) ∧ (ended (exec c (s 2))).hold[0] = none
      ∧ (ended (exec c (s 2))).stats.suppressed = 1 ∧ (ended (exec c (s 1))).hold[0] = some e := by
  unfold SeenLaw; decide

/-- Rate control at an echo: the twelfth in a row steps the level up and tells RATE_CHANGE; at MAX_RATE nothing is told. -/
theorem test_witness_echoes :
    let s := { relaying .awaitingEcho with echoed := 11, unechoed := 0 }
    let c : Instr := .carryReceived 0 (up 40) bytes20 (checkOf (up 40)) (readings 34 20000)
    lampRecord.upshiftAfter = 12 ∧ (ended (exec c s)).rate = .fast ∧ (ended (exec c s)).statuses = 0x100
      ∧ (ended (exec c s)).echoed = 0
      ∧ (ended (exec c { s with rate := .fast })).rate = .fast ∧ (ended (exec c { s with rate := .fast })).statuses = 0
      ∧ (ended (exec c { s with echoed := 10 })).echoed = 11 := by decide

theorem test_witness_hush : hushBad hush0 (frameCheck (hushBits hush0)) (readings 8 20000) = false ∧ hush0.sender ≠ lampRx.own
    ∧ (relay .ready).ident = ⟨hush0.origin, hush0.serial⟩ ∧ lampRx.findSeen ⟨hush0.origin, hush0.serial⟩ = none
    ∧ ({ lampRx with seen := [⟨⟨2210, 311⟩, .upward 0, .dropped, 0, none, 0⟩] } : State).findSeen ⟨2210, 311⟩
        = some ⟨⟨2210, 311⟩, .upward 0, .dropped, 0, none, 0⟩ := by decide

/-- A SURVEY frame sets SURVEY_HEARD beside what stands, and nothing where it is masked (R177). -/
theorem test_survey_statuses :
    let c : Instr := .surveyReceived 0 ⟨4410, 3, 0, 0⟩ [] (frameCheck (surveyBits ⟨4410, 3, 0, 0⟩)) (readings 7 20000)
    let s := { lampRx with statuses := 0x880 }
    lampRx.settle = lampRx ∧ s.settle = s ∧ (ended (exec c s)).statuses = 0xC80
      ∧ (ended (exec c { s with masks := 0x880 })).statuses = 0x880 := by decide

theorem test_witness_survey : surveyBad ⟨4410, 3, 0, 0⟩ [] (frameCheck (surveyBits ⟨4410, 3, 0, 0⟩ ++ payloadBits [])) (readings 7 20000) = false
    ∧ (4410 : Address) ≠ lampRx.own ∧ lampRx.tally = none
    ∧ ({ lampRx with tally := some ⟨4410, 1, 0, 0, 0, 30⟩ } : State).tally = some ⟨4410, 1, 0, 0, 0, 30⟩ := by decide

theorem test_witness_store : Memory.wf ([] : List Host.Cell) ∧ ([3, 1] : List Block).Nodup
    ∧ ([3, 1] : List Block).length = (bytes20.length + 15) / 16 := by decide

theorem test_witness_holdOff : lampRecord.inRange ∧ 1 ≤ 1 ∧ 15 ≤ 15 := ⟨lampRecord_inRange, by omega, by omega⟩

/-! ### Witnesses: the transmitter and the timers -/

/-- The relay in ASSESSING, owner of the attempt. -/
def assessing : State := { holding lamp (relay .assessing) with tx := some ⟨.hold 0, .mid, .assessing, 96000⟩ }

theorem assessing_owner : OwnerLaw assessing :=
  owner_of (start_of (.inl rfl) rfl rfl rfl) (fun r => by simp [assessing, holding, lamp]) (by decide)
    (by decide) (by decide) (by decide) (by decide) (by decide)

theorem test_witness_busy : OwnerLaw assessing ∧ SeenLaw assessing ∧ SlotLaw assessing :=
  ⟨assessing_owner, (relaying_seen .assessing (by decide)).2, relaying_slots .assessing lamp (.inr rfl)⟩

theorem test_witness_busyClauses : assessing.tx = some ⟨.hold 0, .mid, .assessing, 96000⟩ ∧ assessing.rx = .searching
    ∧ 1000 * (assessing.cfg.busyLevel : Int) < 10001 ∧ ¬(1000 * (assessing.cfg.busyLevel : Int) < 10000)
    ∧ (relay .assessing).defers + 1 < 15 ∧ 15 ≤ ({ relay .assessing with defers := 14 } : Hold).defers + 1
    ∧ assessing.nextRequest = none := by decide

/-- Every phase of an attempt over by now, for every owner with a frame to send. -/
theorem test_witness_phases : assessing.tx.any (fun a => a.phase = .assessing ∧ a.ends ≤ max assessing.now 0)
    ∧ (lampTx .beacon .settling).tx = some ⟨.beacon, .slow, .settling, 96000⟩
    ∧ (lampTx .beacon .preamble).tx = some ⟨.beacon, .slow, .preamble, 96000⟩
    ∧ (lampTx .beacon .body).tx = some ⟨.beacon, .slow, .body, 96000⟩ ∧ (96000 : Time) ≤ max lamp.now 0
    ∧ ({ lampTx .hush .preamble with hushQueue := [⟨5, 6⟩] } : State).hushQueue = ⟨5, 6⟩ :: [] := by decide

theorem test_witness_sent : ∀ st : Station, st = .running ∨ st = .silent →
    let s := { holding (lampTx (.hold 0) .body) (relay .sending) with station := st }
    SeenLaw s ∧ s.nextRequest = none ∧ s.hold[(0 : Fin 16)] = some (relay .sending) := by
  unfold SeenLaw
  rintro st (rfl | rfl) <;> decide

/-- The density clauses at their boundaries: DENSE_ABOVE and SPARSE_BELOW UP neighbours change nothing, one more or one
less does (R132). -/
theorem test_witness_density :
    let s (n : Nat) := { lampTx .beacon .body with
      beacon := .inAttempt 11026, power := 200
      table := Vector.ofFn fun i : Fin 32 => if i.1 < n then some (entry812 .up) else none }
    let u (n : Nat) := (ended (exec (.bodyEnd 0) (s n))).power
    lampRecord.denseAbove = 12 ∧ lampRecord.sparseBelow = 4 ∧ (s 12).upCount = 12 ∧ u 12 = 200 ∧ u 13 = 192
      ∧ u 4 = 200 ∧ u 3 = 208 := by decide

/-- BODY_END grants at once: a due beacon, the next HUSH, the READY entry of lower index between equal deadlines, a due
survey frame (R15, R112). -/
theorem test_witness_nextGrant :
    let s := lampTx .hush .body
    let ready : State := { s with
      hushHead := .inAttempt, hushQueue := [⟨5, 6⟩], burst := .due, burstRec := ⟨6, 200, .fast, 20, 5, 5⟩
      hold := setAt (setAt s.hold 3 (some { relay .ready with ident := ⟨7, 7⟩ })) 1 (some (relay .ready)) }
    let owner (s : State) := (ended (exec (.bodyEnd 0) s)).tx.map fun a => (a.owner, a.rate)
    owner ready = some (.hold 1, .mid) ∧ owner { ready with beacon := .due 9000 } = some (.beacon, .slow)
      ∧ owner { ready with hushQueue := [⟨5, 6⟩, ⟨5, 7⟩] } = some (.hush, .slow)
      ∧ owner { ready with hold := s.hold } = some (.survey, .fast)
      ∧ owner { ready with station := .silent } = none := by decide

/-- "sent" while a beacon is due: a survey frame is counted, a HUSH goes, a hold entry awaits its echo, and the beacon is
granted; the READY entry beside waits, and is granted where nothing comes before it. -/
theorem test_witness_sentBeside :
    let due (s : State) : State := { s with beacon := .due 9000 }
    let survey := due { lampTx .survey .body with burst := .inAttempt, burstRec := ⟨6, 200, .fast, 20, 4, 4⟩ }
    let hush := due { lampTx .hush .body with hushHead := .inAttempt, hushQueue := [⟨5, 6⟩] }
    let relayed := holding (lampTx (.hold 0) .body) (relay .sending)
    let beside := { relayed with hold := setAt relayed.hold 4 (some { relay .ready with ident := ⟨7, 7⟩ }) }
    let u (s : State) := ended (exec (.bodyEnd 0) s)
    survey.nextRequest ≠ none ∧ (u survey).burst = .waiting 1200 ∧ (u survey).burstRec.sent = 5
      ∧ (u hush).hushQueue = [] ∧ (u hush).tx.map (fun a => a.owner) = some .beacon
      ∧ (u (due beside)).hold[0].map (fun e => e.state) = some .awaitingEcho
      ∧ (u (due beside)).hold[4].map (fun e => e.state) = some .ready
      ∧ (u beside).hold[4].map (fun e => e.state) = some .assessing
      ∧ (u beside).tx.map (fun a => a.owner) = some (.hold 4) := by decide

/-- A grant while the receiver has a frame is deferred at once (R16). -/
theorem test_witness_engaged : Claim.Engaged lampRx ∧ Claim.Quiet lampRx
    ∧ (let u := ended (exec (.beaconDueExpiry 480000) lampRx)
       u.beacon = .backoff (Claim.backoff lampRx 5000) 15000 ∧ u.tx = none ∧ u.jitter = 0xB21A)
    ∧ (let u := ended (exec (.holdDeadlineExpiry 0 0) (relaying .holding))
       u.hold[0].map (fun e => (e.state, e.deadline, e.defers)) = some (.holding, 1004, 1))
    ∧ (let u := ended (exec (.resume 0) { lampRx with station := .silent, hushQueue := [⟨5, 6⟩] })
       u.hushHead = .backoff 1004 ∧ u.tx = none)
    ∧ (ended (exec (.survey 0 6 200 2 20) lampRx)).burst = .backoff 1004 :=
  ⟨⟨.mid, .inr rfl⟩, by unfold Claim.Quiet; decide, by decide, by decide, by decide, by decide⟩

theorem test_witness_nextGrantLaw : OwnerLaw (holding (lampTx (.hold 0) .body) (relay .sending)) :=
  owner_of (start_of (.inl rfl) rfl rfl rfl) (fun r => by simp [holding, lampTx, lamp]) (by decide)
    (by decide) (by decide) (by decide) (by decide) (by decide)

theorem test_witness_sentSurvey : ∀ b ∈ [Burst.inAttempt, .ending],
    ({ lampTx .survey .body with burst := b, burstRec := ⟨6, 200, .fast, 20, 5, 5⟩ } : State).nextRequest = none := by
  decide

theorem test_witness_beaconTimers : Claim.Quiet lamp ∧ Claim.FreeToGrant lamp ∧ lamp.settle = lamp
    ∧ lamp.beacon = .waiting 5000 ∧ 5000 ≤ max lamp.now 480000 / 96
    ∧ Claim.FreeToGrant { lamp with beacon := .backoff 1000 9000 }
    ∧ Claim.Quiet { lamp with beacon := .due 1000, station := .silent }
    ∧ ({ lamp with beacon := .inAttempt 1000 } : State).beacon = .inAttempt 1000 ∧ 1000 ≤ max lamp.now 0 / 96 := by
  unfold Claim.Quiet Claim.FreeToGrant; decide

/-- The recheck's four findings: rank risen to Rs, no route, best rank heard at the own rank, none of them. -/
theorem test_witness_recheck : Claim.Quiet (holding lamp (relay .holding)) ∧ Claim.FreeToGrant (holding lamp (relay .holding))
    ∧ (relay .holding).deadline ≤ max lamp.now 0 / 96
    ∧ ({ lamp with ranks := #v[57, 0, 0, 0] } : State).recheck (relay .holding) = some .staleRank
    ∧ ({ lamp with ranks := #v[4095, 0, 0, 0] } : State).recheck { relay .holding with senderRank := none } = some .noRoute
    ∧ ({ lamp with seen := [⟨⟨2210, 311⟩, .upward 0, .pending, 1, some 41, 0⟩] } : State).recheck (relay .holding)
        = some .suppressed
    ∧ (holding lamp (relay .holding)).recheck (relay .holding) = none := by
  unfold Claim.Quiet Claim.FreeToGrant; decide

theorem test_witness_recheckLaws : SeenLaw (holding lamp (relay .holding)) ∧ SlotLaw (holding lamp (relay .holding)) :=
  ⟨(relaying_seen .holding (by decide)).2, relaying_slots .holding lamp (.inr rfl)⟩

theorem test_witness_echoExpiry : (holding lamp (relay .awaitingEcho)).hold[(0 : Fin 16)] = some (relay .awaitingEcho)
    ∧ (relay .awaitingEcho).attempts < lamp.cfg.retryLimit + 1
    ∧ lamp.cfg.retryLimit + 1 ≤ ({ relay .awaitingEcho with attempts := 3 } : Hold).attempts
    ∧ lamp.unechoed + 1 < lamp.cfg.downshiftAfter
    ∧ lamp.cfg.downshiftAfter ≤ ({ lamp with unechoed := 2 } : State).unechoed + 1 := by decide

theorem test_witness_requestsAgain :
    Claim.FreeToGrant { lamp with hushHead := .backoff 1000, hushQueue := [⟨5, 6⟩] }
    ∧ Claim.FreeToGrant { lamp with burst := .waiting 1000 } ∧ Claim.FreeToGrant { lamp with burst := .backoff 1000 }
    ∧ Claim.Quiet { lamp with burst := .backoff 1000, station := .silent }
    ∧ State.settle { lamp with burst := .backoff 1000 } = { lamp with burst := .backoff 1000 } := by
  unfold Claim.Quiet Claim.FreeToGrant; decide

theorem test_witness_indicator : ({ lamp with stretch := some 1000 } : State).stretch = some 1000 ∧ 1000 ≤ max lamp.now 0 / 96
    ∧ ({ lamp with alternation := some ⟨true, 1000⟩ } : State).alternation = some ⟨true, 1000⟩ := by decide

theorem test_witness_notEarly : (∀ d, lamp.beacon = .waiting d → max lamp.now 0 / 96 < d) ∧ (entry812 .up).due > 100 :=
  ⟨fun d h => by simp [lamp] at h; subst h; decide, by decide⟩

/-! ### Witnesses: the lamp port -/

theorem test_witness_judged : Claim.lampAnswer (.submit 0 0 0 1 1 []) .silent = some 0x09
    ∧ Claim.lampAnswer (.release 0) .loading = some 0x01 ∧ Claim.lampAnswer (.resume 0) .running = some 0x02 := by decide

theorem test_witness_badCommand : (0x7F : Byte) ∉ commandCodes := by decide

theorem test_witness_taken : lamp.station = .running ∨ lamp.station = .silent := .inl rfl

theorem test_witness_statusBefore : StartLaw State.reset := by
  show AtReset State.reset ∧ _
  unfold AtReset
  decide

theorem test_witness_refusedSubmits :
    lamp.submitRefusal 2 0 1 0 = some .badArgument ∧ anchorRx.submitRefusal 0 0 1 0 = some .badArgument
    ∧ lamp.submitRefusal 0 1 1 0 = some .noRoute
    ∧ ({ lamp with slots := Vector.replicate 4 (.pending 0) } : State).submitRefusal 0 0 1 0 = some .full
    ∧ ({ lamp with free := [] } : State).submitRefusal 0 0 1 1 = some .noBuffer
    ∧ lamp.submitRefusal 0 0 1 112 = none := by decide

theorem test_witness_acceptedSubmit : SeenLaw lamp ∧ BlockLaw lamp ∧ StoreForm lamp ∧ lamp.slots[(0 : Fin 4)] = .free
    ∧ lamp.hold[(0 : Fin 16)] = none ∧ (bytes20.length + 15) / 16 ≤ lamp.free.length
    ∧ (∀ a : Fin 4, a.1 = (0 : Byte).toNat → lamp.ranks[a] ≠ 4095) := by
  unfold SeenLaw BlockLaw StoreForm; decide

/-- A state whose slots show every form. -/
def slotted : State := { lamp with slots := #v[.free, .pending 7, .complete 8 (.dropped .silenced) 1, .free] }

theorem test_witness_originStatus : 3 < (4 : Byte).toNat ∧ slotted.slots[(0 : Fin 4)] = .free
    ∧ slotted.slots[(1 : Fin 4)] = .pending 7 ∧ slotted.slots[(2 : Fin 4)] = .complete 8 (.dropped .silenced) 1 := by decide

theorem test_witness_fetch : lamp.ring = []
    ∧ ({ lamp with ring := [⟨⟨5, 6⟩, .spread 0, 812, 3, 0, []⟩] } : State).ring = ⟨⟨5, 6⟩, .spread 0, 812, 3, 0, []⟩ :: [] := by
  decide

theorem test_witness_events : lamp.settle = lamp ∧ triggerMode lamp.modes 0 ≠ triggerMode 0 0
    ∧ (levelWord 0).getLsbD 3 = true ∧ (levelWord 0xFF).getLsbD 3 = false := by decide

theorem test_witness_silence : assessing.station = .running ∧ SeenLaw assessing ∧ SlotLaw assessing ∧ OwnerLaw assessing :=
  ⟨rfl, test_witness_busy.2.1, test_witness_busy.2.2, assessing_owner⟩

theorem test_witness_resume :
    let s := { lamp with station := .silent, beacon := .due 9000 }
    s.station = .silent ∧ s.tx = none ∧ s.rx = .searching ∧ lamp.beaconRequests = false := by decide

theorem test_witness_surveys : lamp.burst = .stopped ∧ Claim.FreeToGrant lamp
    ∧ ({ lamp with burst := .waiting 5 } : State).burst ≠ .stopped ∧ assessing.settle = assessing
    ∧ assessing.tx.any (fun a => a.owner ≠ .survey ∨ a.phase ≠ .assessing) := by
  unfold Claim.FreeToGrant; decide

/-- STOP_SURVEY takes a survey frame out of ASSESSING, and the beacon that waited behind it is granted (R15, R176). -/
theorem test_witness_stopSurvey :
    let s := { lampTx .survey .assessing with burst := .inAttempt, burstRec := ⟨6, 200, .fast, 20, 4, 4⟩, beacon := .due 9000 }
    let u := ended (exec (.stopSurvey 0) s)
    s.settle = s ∧ s.tx.any (fun a => a.owner = .survey ∧ a.phase = .assessing) ∧ s.rx = .searching
      ∧ u.burst = .stopped ∧ u.tx.map (fun a => a.owner) = some .beacon ∧ u.beacon = .inAttempt 9000
      ∧ (let v := ended (exec (.stopSurvey 0) { s with rx := .receiving .mid })
         v.tx = none ∧ v.burst = .stopped ∧ v.beacon = .backoff 1004 9000) := by decide

theorem test_witness_stopSurveyEngaged : Claim.Engaged lampRx ∧ ¬Claim.Engaged lamp :=
  ⟨⟨.mid, .inr rfl⟩, fun ⟨r, h⟩ => by cases h <;> contradiction⟩

theorem test_witness_laws : OwnerLaw assessing ∧ StartLaw assessing := ⟨assessing_owner, assessing_owner.1⟩

end Sys2Proof.Tests
end

section
namespace Sys2Proof.Machine

/-! ### The event unit at the end of an event (R169) -/

/-- What the event unit judges by stands in `u` as in `s`: the settings, the statuses and the level conditions. -/
def SameSources (s u : State) : Prop :=
  u.masks = s.masks ∧ u.modes = s.modes ∧ u.latches = s.latches ∧ u.statuses = s.statuses ∧ u.ring = s.ring
    ∧ u.slots = s.slots ∧ u.free = s.free ∧ u.ranks = s.ranks

/-- The event unit has nothing left to do where it judges as in a settled state. -/
theorem State.settle_of_sources {s u : State} (hs : s.settle = s) (h : SameSources s u) : u.settle = u := by
  obtain ⟨hmasks, hmodes, hlatches, hstatuses, hring, hslots, hfree, hranks⟩ := h
  have hsame : u.settle.statuses = s.settle.statuses := by
    simp only [State.settle, State.conditionWord, State.deliveryHolds, State.originDoneHolds, State.bufferLowHolds,
      State.unreachable, hmasks, hmodes, hlatches, hstatuses, hring, hslots, hfree, hranks]
  rw [hs, ← hstatuses] at hsame
  calc u.settle = { u with statuses := u.settle.statuses } := rfl
    _ = u := by rw [hsame]

/-- A level source's bit is one of the first seven (10.3). -/
theorem levelWord_high (modes : BitVec 8) {b : Nat} (hb : 7 ≤ b) : (levelWord modes).getLsbD b = false := by
  have hbit (c : Bool) (i : Nat) (hi : i < 7) : (bitIf c i).getLsbD b = false := by
    unfold bitIf
    split
    · simp [BitVec.getLsbD_twoPow]
      omega
    · simp
  have hlow : (0x007#12).getLsbD b = false := by
    by_cases h12 : b < 12
    · interval_cases b <;> rfl
    · exact BitVec.getLsbD_of_ge _ _ (by omega)
  simp only [levelWord, BitVec.getLsbD_or, hlow, hbit _ _ (show 3 < 7 by omega), hbit _ _ (show 4 < 7 by omega),
    hbit _ _ (show 5 < 7 by omega), hbit _ _ (show 6 < 7 by omega), Bool.or_self]

/-- A transition source keeps its status while it is unmasked (R168). -/
theorem State.settle_transition (s : State) {b : Nat} (hb : 7 ≤ b) (h12 : b < 12) :
    s.settle.statuses.getLsbD b = (s.masks.getLsbD b && s.statuses.getLsbD b) := by
  simp only [State.settle, BitVec.getLsbD_and, BitVec.getLsbD_or, BitVec.getLsbD_not, levelWord_high s.modes hb, h12,
    decide_true, Bool.not_false, Bool.true_or, Bool.and_true, Bool.false_and, Bool.or_false]

/-! ### The requests (R15) -/

theorem State.beaconRequests_iff (s : State) : s.beaconRequests = true ↔ ∃ r, s.beacon = .due r := by
  unfold State.beaconRequests
  cases s.beacon <;> simp

theorem State.hushRequests_iff (s : State) :
    s.hushRequests = true ↔ s.hushQueue ≠ [] ∧ s.hushHead = .standing := by
  simp [State.hushRequests]

theorem State.surveyRequests_iff (s : State) : s.surveyRequests = true ↔ s.burst = .due := by
  simp [State.surveyRequests]

theorem State.isReady_iff (s : State) (i : Fin 16) :
    s.isReady i = true ↔ ∃ e, s.hold[i] = some e ∧ e.state = .ready := by
  simp [State.isReady, Option.any_eq_true]

/-- A least element is found in every list but the empty one. -/
theorem leastBy_eq_none_iff {α : Type} (l : List α) (key : α → Nat) : leastBy l key = none ↔ l = [] := by
  constructor
  · intro h
    cases hmin : l.argmin key with
    | none => exact List.argmin_eq_none.1 hmin
    | some m =>
      have hleast : ∀ j ∈ l, key m ≤ key j := fun j hj => List.le_of_mem_argmin hj hmin
      exact absurd (by simpa using hleast) (List.find?_eq_none.1 h m (List.argmin_mem hmin))
  · rintro rfl
    rfl

/-- Of rising places the least key is found, at the lowest place between equal ones. -/
theorem leastBy_eq_some {n : Nat} {l : List (Fin n)} {key : Fin n → Nat} {i : Fin n} (rising : l.Pairwise (· < ·))
    (hi : i ∈ l) (least : ∀ j ∈ l, key i < key j ∨ key i = key j ∧ i ≤ j) : leastBy l key = some i := by
  obtain ⟨before, after, rfl⟩ := List.append_of_mem hi
  refine List.find?_eq_some_iff_append.2 ⟨?_, before, after, rfl, fun a ha => ?_⟩
  · rw [List.all_eq_true]
    intro j hj
    have := least j hj
    exact decide_eq_true (by omega)
  · have hlt : a < i := (List.pairwise_append.1 rising).2.2 a ha i List.mem_cons_self
    have hkey : key i < key a := by
      have := least a (List.mem_append_left _ ha)
      omega
    rw [Bool.not_eq_true', List.all_eq_false]
    exact ⟨i, hi, by simpa using hkey⟩

theorem State.mem_ready (s : State) (i : Fin 16) : i ∈ (List.finRange 16).filter s.isReady ↔ s.isReady i = true := by
  simp

/-- No entry is found READY exactly where none is. -/
theorem State.readyHold_eq_none_iff (s : State) :
    s.readyHold = none ↔ ∀ (i : Fin 16) (e : Hold), s.hold[i] = some e → e.state ≠ .ready := by
  rw [State.readyHold, leastBy_eq_none_iff, List.filter_eq_nil_iff]
  constructor
  · intro h i e he hr
    exact h i (List.mem_finRange i) ((s.isReady_iff i).2 ⟨e, he, hr⟩)
  · intro h i _ hi
    obtain ⟨e, he, hr⟩ := (s.isReady_iff i).1 hi
    exact h i e he hr

/-- The entry found is READY. -/
theorem State.readyHold_some {s : State} {i : Fin 16} (h : s.readyHold = some i) :
    ∃ e, s.hold[i] = some e ∧ e.state = .ready :=
  (s.isReady_iff i).1 ((s.mem_ready i).1 (List.mem_of_find?_eq_some h))

/-- The READY entry of earliest deadline is found, the lower index between equal ones (R15). -/
theorem State.readyHold_eq_some {s : State} {i : Fin 16} {e : Hold} (he : s.hold[i] = some e) (hr : e.state = .ready)
    (least : ∀ (j : Fin 16) (f : Hold), s.hold[j] = some f → f.state = .ready →
      e.deadline < f.deadline ∨ e.deadline = f.deadline ∧ i ≤ j) : s.readyHold = some i := by
  refine leastBy_eq_some ((List.pairwise_lt_finRange 16).filter _) ((s.mem_ready i).2 ((s.isReady_iff i).2 ⟨e, he, hr⟩)) ?_
  intro j hj
  obtain ⟨f, hf, hfr⟩ := (s.isReady_iff j).1 ((s.mem_ready j).1 hj)
  simpa only [he, hf] using least j f hf hfr

/-- When no request stands (R15). -/
theorem State.nextRequest_eq_none_iff (s : State) :
    s.nextRequest = none ↔ (∀ r, s.beacon ≠ .due r) ∧ ¬(s.hushQueue ≠ [] ∧ s.hushHead = .standing)
      ∧ (∀ (i : Fin 16) (e : Hold), s.hold[i] = some e → e.state ≠ .ready) ∧ s.burst ≠ .due := by
  rw [← s.readyHold_eq_none_iff, ← s.hushRequests_iff, Ne, ← s.surveyRequests_iff, ← not_exists, ← s.beaconRequests_iff]
  unfold State.nextRequest
  cases s.beaconRequests <;> cases s.hushRequests <;> cases s.readyHold <;> cases s.surveyRequests <;> simp

/-- A due beacon comes first (R15). -/
theorem State.nextRequest_beacon {s : State} {r : Millis} (h : s.beacon = .due r) : s.nextRequest = some .beacon := by
  rw [State.nextRequest, if_pos (s.beaconRequests_iff.2 ⟨r, h⟩)]

/-- A standing HUSH head comes after a beacon (R15). -/
theorem State.nextRequest_hush {s : State} (hb : ∀ r, s.beacon ≠ .due r) (hq : s.hushQueue ≠ [])
    (hh : s.hushHead = .standing) : s.nextRequest = some .hush := by
  rw [State.nextRequest, if_neg (fun h => (s.beaconRequests_iff.1 h).elim hb), if_pos (s.hushRequests_iff.2 ⟨hq, hh⟩)]

/-- A READY entry comes after beacon and HUSH (R15). -/
theorem State.nextRequest_hold {s : State} {i : Fin 16} (hb : ∀ r, s.beacon ≠ .due r)
    (hh : ¬(s.hushQueue ≠ [] ∧ s.hushHead = .standing)) (hr : s.readyHold = some i) :
    s.nextRequest = some (.hold i) := by
  rw [State.nextRequest, if_neg (fun h => (s.beaconRequests_iff.1 h).elim hb),
    if_neg (fun h => hh (s.hushRequests_iff.1 h)), hr]

/-- A due survey frame comes last (R15). -/
theorem State.nextRequest_survey {s : State} (hb : ∀ r, s.beacon ≠ .due r)
    (hh : ¬(s.hushQueue ≠ [] ∧ s.hushHead = .standing))
    (hr : ∀ (i : Fin 16) (e : Hold), s.hold[i] = some e → e.state ≠ .ready) (hs : s.burst = .due) :
    s.nextRequest = some .survey := by
  rw [State.nextRequest, if_neg (fun h => (s.beaconRequests_iff.1 h).elim hb),
    if_neg (fun h => hh (s.hushRequests_iff.1 h)), s.readyHold_eq_none_iff.2 hr]
  exact if_pos (s.surveyRequests_iff.2 hs)

/-- Who is granted stands: its record says so (R15). -/
theorem State.nextRequest_stands {s : State} {o : Owner} (h : s.nextRequest = some o) :
    match o with
    | .beacon => ∃ r, s.beacon = .due r
    | .hush => s.hushQueue ≠ [] ∧ s.hushHead = .standing
    | .hold i => ∃ e, s.hold[i] = some e ∧ e.state = .ready
    | .survey => s.burst = .due := by
  unfold State.nextRequest at h
  split at h
  · next hb => cases h; exact s.beaconRequests_iff.1 hb
  · split at h
    · next hh => cases h; exact s.hushRequests_iff.1 hh
    · split at h
      · next i hi => cases h; exact State.readyHold_some hi
      · split at h
        · next hs => cases h; exact s.surveyRequests_iff.1 hs
        · cases h

/-! ### Grants (R15, R16) -/

/-- The state after a grant to `o`, before a receiver with a frame judges it busy (R15). -/
def State.granted (s : State) (o : Owner) : State :=
  { s.markGranted o with tx := some ⟨o, s.grantRate o, .assessing, s.now + 96 * s.cfg.ccaMs⟩ }

/-- A grant writes the transmitter and the owners' records alone (R15). -/
theorem State.granted_frame (s : State) (o : Owner) : s.granted o = { s with
    tx := (s.granted o).tx, beacon := (s.granted o).beacon, hushHead := (s.granted o).hushHead
    hold := (s.granted o).hold, burst := (s.granted o).burst } := by
  cases o <;> unfold State.granted State.markGranted <;> dsimp only <;> split <;> rfl

/-- A receiver without a frame leaves the grant as it is (R16). -/
theorem State.grant_of_idle {s : State} (h : s.rx.busy = false) (o : Owner) : s.grant o = s.granted o := by
  simp only [State.grant, h, Bool.false_eq_true, if_false]
  rfl

/-- A receiver with a frame judges the grant busy at once (R16). -/
theorem State.grant_of_busy {s : State} (h : s.rx.busy = true) (o : Owner) :
    s.grant o = (s.granted o).deferOwner o := by
  simp only [State.grant, h, if_true]
  rfl

theorem busy_of_engaged {s : State} (h : Claim.Engaged s) : s.rx.busy = true := by
  obtain ⟨r, h | h⟩ := h <;> rw [h] <;> rfl

theorem busy_of_not_engaged {s : State} (h : ¬Claim.Engaged s) : s.rx.busy = false := by
  cases hrx : s.rx with
  | off => rfl
  | searching => rfl
  | awaiting r => exact absurd ⟨r, .inl hrx⟩ h
  | receiving r => exact absurd ⟨r, .inr hrx⟩ h

/-- Marking writes the granted owner's record alone (R15). -/
theorem State.granted_others (s : State) (o : Owner) :
    (o ≠ .beacon → (s.granted o).beacon = s.beacon) ∧ (o ≠ .hush → (s.granted o).hushHead = s.hushHead)
      ∧ (o ≠ .survey → (s.granted o).burst = s.burst)
      ∧ ∀ j : Fin 16, o ≠ .hold j → (s.granted o).hold[j] = s.hold[j] := by
  cases o with
  | beacon => unfold State.granted State.markGranted; dsimp only; split <;> simp
  | hush => simp [State.granted, State.markGranted]
  | survey => simp [State.granted, State.markGranted]
  | hold i =>
    unfold State.granted State.markGranted
    dsimp only
    split
    · refine ⟨by simp, by simp, by simp, fun j hj => ?_⟩
      exact setAt_other _ _ fun h => hj (by rw [h])
    · simp

theorem State.granted_beacon {s : State} {r : Millis} (h : s.beacon = .due r) :
    (s.granted .beacon).beacon = .inAttempt r := by
  simp [State.granted, State.markGranted, h]

theorem State.granted_hold {s : State} {i : Fin 16} {e : Hold} (h : s.hold[i] = some e) :
    (s.granted (.hold i)).hold = setAt s.hold i (some { e with state := .assessing }) := by
  simp [State.granted, State.markGranted, h]

/-- A grant is nothing to the event unit (R168). -/
theorem SameSources.granted {s u : State} (h : SameSources s u) (o : Owner) : SameSources s (u.granted o) := by
  rw [State.granted_frame]
  exact h

/-! ### Grants deferred at once (R16, R18) -/

/-- A deferral leaves the transmitter IDLE (R18). -/
theorem State.deferOwner_tx (s : State) (o : Owner) : (s.deferOwner o).tx = none := by
  unfold State.deferOwner
  dsimp only
  repeat' split
  all_goals simp

/-- A deferral writes the deferred owner's record alone (R18). -/
theorem State.deferOwner_others (s : State) (o : Owner) :
    (o ≠ .beacon → (s.deferOwner o).beacon = s.beacon) ∧ (o ≠ .hush → (s.deferOwner o).hushHead = s.hushHead)
      ∧ (o ≠ .survey → (s.deferOwner o).burst = s.burst) := by
  unfold State.deferOwner
  dsimp only
  repeat' split
  all_goals simp

/-- A grant, deferred at once or not, writes the granted owner's record alone (R15, R18). -/
theorem State.grant_others (s : State) (o : Owner) :
    (o ≠ .beacon → (s.grant o).beacon = s.beacon) ∧ (o ≠ .hush → (s.grant o).hushHead = s.hushHead)
      ∧ (o ≠ .survey → (s.grant o).burst = s.burst) := by
  obtain ⟨hbeacon, hhush, hsurvey, -⟩ := s.granted_others o
  obtain ⟨dbeacon, dhush, dsurvey⟩ := (s.granted o).deferOwner_others o
  cases hrx : s.rx.busy with
  | false => rw [State.grant_of_idle hrx]; exact ⟨hbeacon, hhush, hsurvey⟩
  | true =>
    rw [State.grant_of_busy hrx]
    exact ⟨fun h => (dbeacon h).trans (hbeacon h), fun h => (dhush h).trans (hhush h),
      fun h => (dsurvey h).trans (hsurvey h)⟩

/-- A due beacon granted and deferred at once backs off with its replacement deadline (R16, R52). -/
theorem State.grant_beacon_of_busy {s : State} {r : Millis} (hrx : s.rx.busy = true) (htx : s.tx = none)
    (h : s.beacon = .due r) :
    s.grant .beacon = { s with jitter := jitterStep s.jitter, beacon := .backoff (Claim.backoff s s.nowMs) r } := by
  rw [State.grant_of_busy hrx]
  cases s
  subst h htx
  rfl

/-- A HUSH head granted and deferred at once backs off (R16, R112). -/
theorem State.grant_hush_of_busy {s : State} (hrx : s.rx.busy = true) (htx : s.tx = none) :
    s.grant .hush = { s with jitter := jitterStep s.jitter, hushHead := .backoff (Claim.backoff s s.nowMs) } := by
  rw [State.grant_of_busy hrx]
  cases s
  subst htx
  rfl

/-- A survey frame granted and deferred at once backs off (R16, R175). -/
theorem State.grant_survey_of_busy {s : State} (hrx : s.rx.busy = true) (htx : s.tx = none) :
    s.grant .survey = { s with jitter := jitterStep s.jitter, burst := .backoff (Claim.backoff s s.nowMs) } := by
  rw [State.grant_of_busy hrx]
  cases s
  subst htx
  rfl

/-! ### The arbiter at the end of an event (R15) -/

/-- What holds at the start of an arbitration and is kept by every grant of the next request holds at its end. -/
theorem State.arbitrateUpTo_induct {P : State → Prop}
    (keeps : ∀ s o, P s → s.station = .running → s.tx = none → s.nextRequest = some o → P (s.grant o)) :
    ∀ n s, P s → P (State.arbitrateUpTo n s) := by
  intro n
  induction n with
  | zero => exact fun s h => h
  | succ n ih =>
    intro s h
    unfold State.arbitrateUpTo
    split
    · next hidle =>
      split
      · next o ho => exact ih _ (keeps s o h hidle.1 hidle.2 ho)
      · exact h
    · exact h

/-- An arbitration grants nothing where no request may be granted (R15). -/
theorem State.arbitrateUpTo_of_quiet {s : State} (h : Claim.Quiet s) (n : Nat) : State.arbitrateUpTo n s = s := by
  cases n with
  | zero => rfl
  | succ n =>
    unfold State.arbitrateUpTo
    split
    · next hidle => rw [h hidle.1 hidle.2]
    · rfl

theorem State.arbitrate_of_quiet {s : State} (h : Claim.Quiet s) : s.arbitrate = s := State.arbitrateUpTo_of_quiet h 19

theorem quiet_of_tx {s : State} {a : Attempt} (h : s.tx = some a) : Claim.Quiet s := fun _ hn => by simp [hn] at h

theorem quiet_of_not_running {s : State} (h : s.station ≠ .running) : Claim.Quiet s := fun hr => absurd hr h

theorem quiet_of_none {s : State} (h : s.nextRequest = none) : Claim.Quiet s := fun _ _ => h

/-- The first grant of an arbitration (R15). -/
theorem State.arbitrate_first {s : State} {o : Owner} (hrun : s.station = .running) (htx : s.tx = none)
    (ho : s.nextRequest = some o) : s.arbitrate = State.arbitrateUpTo 18 (s.grant o) := by
  rw [State.arbitrate, State.arbitrateUpTo, if_pos ⟨hrun, htx⟩, ho]

/-- Where the receiver has no frame the arbiter grants once (R15). -/
theorem State.arbitrate_granted {s : State} {o : Owner} (hrx : s.rx.busy = false) (hrun : s.station = .running)
    (htx : s.tx = none) (ho : s.nextRequest = some o) : s.arbitrate = s.granted o := by
  rw [State.arbitrate_first hrun htx ho, State.grant_of_idle hrx]
  exact State.arbitrateUpTo_of_quiet (quiet_of_tx rfl) 18

/-- What the arbiter can do where the receiver has no frame: nothing, or one grant (R15). -/
theorem State.arbitrate_cases {s : State} (hrx : s.rx.busy = false) :
    (Claim.Quiet s ∧ s.arbitrate = s)
      ∨ ∃ o, s.station = .running ∧ s.tx = none ∧ s.nextRequest = some o ∧ s.arbitrate = s.granted o := by
  by_cases hidle : s.station = .running ∧ s.tx = none
  · cases ho : s.nextRequest with
    | none => exact .inl ⟨quiet_of_none ho, State.arbitrate_of_quiet (quiet_of_none ho)⟩
    | some o => exact .inr ⟨o, hidle.1, hidle.2, rfl, State.arbitrate_granted hrx hidle.1 hidle.2 ho⟩
  · have hq : Claim.Quiet s := fun hr hn => absurd ⟨hr, hn⟩ hidle
    exact .inl ⟨hq, State.arbitrate_of_quiet hq⟩

/-- Where the receiver has a frame an arbitration ends with the transmitter IDLE (R16). -/
theorem State.arbitrate_tx_of_busy {s : State} (hrx : s.rx.busy = true) (htx : s.tx = none) : s.arbitrate.tx = none :=
  (State.arbitrateUpTo_induct (P := fun u => u.rx.busy = true ∧ u.tx = none)
    (fun u o h _ _ _ => ⟨by simp [h.1], by rw [State.grant_of_busy h.1, State.deferOwner_tx]⟩) 19 s ⟨hrx, htx⟩).2

/-- A beacon's, a HUSH head's or a burst's record is left alone by an arbitration it has no request in (R15). -/
theorem State.arbitrateUpTo_others (n : Nat) (s : State) :
    ((∀ r, s.beacon ≠ .due r) → (State.arbitrateUpTo n s).beacon = s.beacon)
      ∧ (s.hushHead ≠ .standing → (State.arbitrateUpTo n s).hushHead = s.hushHead)
      ∧ (s.burst ≠ .due → (State.arbitrateUpTo n s).burst = s.burst) := by
  refine ⟨fun h => ?_, fun h => ?_, fun h => ?_⟩
  · refine State.arbitrateUpTo_induct (P := fun u => u.beacon = s.beacon) (fun u o hu _ _ ho => ?_) n s rfl
    refine ((u.grant_others o).1 ?_).trans hu
    rintro rfl
    obtain ⟨r, hr⟩ := State.nextRequest_stands ho
    exact h r (hu ▸ hr)
  · refine State.arbitrateUpTo_induct (P := fun u => u.hushHead = s.hushHead) (fun u o hu _ _ ho => ?_) n s rfl
    refine ((u.grant_others o).2.1 ?_).trans hu
    rintro rfl
    exact h (hu ▸ (State.nextRequest_stands ho).2)
  · refine State.arbitrateUpTo_induct (P := fun u => u.burst = s.burst) (fun u o hu _ _ ho => ?_) n s rfl
    refine ((u.grant_others o).2.2 ?_).trans hu
    rintro rfl
    exact h (hu ▸ State.nextRequest_stands ho)

/-! ### The end of an event (R15, R16, R169) -/

/-- Where no request may be granted the end of an event is the event unit's alone (R15, R169). -/
theorem State.finish_of_quiet {s : State} (h : Claim.Quiet s) : s.finish = s.settle := by
  rw [State.finish, State.arbitrate_of_quiet h]

/-- An event that leaves nothing to grant and nothing to judge is over (R15, R169). -/
theorem State.finish_eq_self {s u : State} (hquiet : Claim.Quiet u) (hs : s.settle = s) (h : SameSources s u) :
    u.finish = u := by
  rw [State.finish_of_quiet hquiet, State.settle_of_sources hs h]

/-- An event that leaves a request ends with its grant where the transmitter is free (R15). -/
theorem State.finish_granted {s : State} {o : Owner} (hrx : s.rx.busy = false) (hrun : s.station = .running)
    (htx : s.tx = none) (ho : s.nextRequest = some o) : s.finish = (s.granted o).settle := by
  rw [State.finish, State.arbitrate_granted hrx hrun htx ho]

/-- An event that leaves one request ends with its grant deferred where the receiver has a frame (R16). -/
theorem State.finish_deferred {s : State} {o : Owner} (hrun : s.station = .running) (htx : s.tx = none)
    (ho : s.nextRequest = some o) (hlast : (s.grant o).nextRequest = none) : s.finish = (s.grant o).settle := by
  rw [State.finish, State.arbitrate_first hrun htx ho, State.arbitrateUpTo_of_quiet (quiet_of_none hlast)]

/-- Where fewer records request, still none does (R15). -/
theorem State.nextRequest_none_of_fewer {s u : State} (h : s.nextRequest = none)
    (hbeacon : ∀ r, u.beacon = .due r → s.beacon = .due r)
    (hhush : u.hushQueue ≠ [] ∧ u.hushHead = .standing → s.hushQueue ≠ [] ∧ s.hushHead = .standing)
    (hready : ∀ (i : Fin 16) (e : Hold), u.hold[i] = some e → e.state = .ready → s.hold[i] = some e)
    (hsurvey : u.burst = .due → s.burst = .due) : u.nextRequest = none := by
  obtain ⟨nobeacon, nohush, noready, nosurvey⟩ := s.nextRequest_eq_none_iff.1 h
  exact u.nextRequest_eq_none_iff.2 ⟨fun r hr => nobeacon r (hbeacon r hr), fun hu => nohush (hhush hu),
    fun i e he hr => noready i e (hready i e he hr) hr, fun hu => nosurvey (hsurvey hu)⟩

end Sys2Proof.Machine
end

section
namespace Sys2Proof.Machine

/-! ### What an event leaves of station and radio (R8, R14, R180) -/

/-- From `s` to `u` station state, loader, record and alternation stand, the receiver is OFF as before, and no attempt
is past ASSESSING that was not; an attempt begins while RUNNING alone. -/
structure Steady (s u : State) : Prop where
  station : u.station = s.station
  loader : u.loader = s.loader
  record : u.record = s.record
  alternation : u.alternation = s.alternation
  off : u.rx = .off ↔ s.rx = .off
  past : u.tx.any Attempt.pastAssessing = s.tx.any Attempt.pastAssessing
  begun : ∀ a, u.tx = some a → s.tx = some a ∨ s.station = .running

theorem Steady.refl (s : State) : Steady s s := ⟨rfl, rfl, rfl, rfl, .rfl, rfl, fun _ h => .inl h⟩

theorem Steady.trans {s v u : State} (h₁ : Steady s v) (h₂ : Steady v u) : Steady s u where
  station := h₂.station.trans h₁.station
  loader := h₂.loader.trans h₁.loader
  record := h₂.record.trans h₁.record
  alternation := h₂.alternation.trans h₁.alternation
  off := h₂.off.trans h₁.off
  past := h₂.past.trans h₁.past
  begun a ha := (h₂.begun a ha).elim (h₁.begun a) fun hr => .inr (h₁.station ▸ hr)

/-- An operation that reaches none of the six fields. -/
theorem Steady.of_frame {s u : State} (h : u.station = s.station ∧ u.loader = s.loader ∧ u.record = s.record
    ∧ u.alternation = s.alternation ∧ u.rx = s.rx ∧ u.tx = s.tx) : Steady s u := by
  obtain ⟨hstation, hloader, hrecord, halternation, hrx, htx⟩ := h
  exact ⟨hstation, hloader, hrecord, halternation, by rw [hrx], by rw [htx], fun a ha => .inl (htx ▸ ha)⟩

/-- A receiver that is on and stays on (R9, R12). -/
theorem Steady.of_on {s u : State} (h : u.station = s.station ∧ u.loader = s.loader ∧ u.record = s.record
    ∧ u.alternation = s.alternation ∧ u.tx = s.tx) (hs : s.rx ≠ .off) (hu : u.rx ≠ .off) : Steady s u := by
  obtain ⟨hstation, hloader, hrecord, halternation, htx⟩ := h
  exact ⟨hstation, hloader, hrecord, halternation, by simp only [hs, hu], by rw [htx], fun a ha => .inl (htx ▸ ha)⟩

/-- An attempt in ASSESSING that ends (R18, R19). -/
theorem Steady.of_ended {s u : State} {a : Attempt} (h : u.station = s.station ∧ u.loader = s.loader
    ∧ u.record = s.record ∧ u.alternation = s.alternation ∧ u.rx = s.rx ∧ u.tx = none) (ha : s.tx = some a)
    (hp : a.phase = .assessing) : Steady s u := by
  obtain ⟨hstation, hloader, hrecord, halternation, hrx, htx⟩ := h
  exact ⟨hstation, hloader, hrecord, halternation, by rw [hrx], by simp [htx, ha, Attempt.pastAssessing, hp],
    fun b hb => by simp [htx] at hb⟩

theorem Steady.advance (s : State) (t : Time) : Steady s (s.advance t) := .of_frame ⟨rfl, rfl, rfl, rfl, rfl, rfl⟩

theorem Steady.answer {s u : State} (h : Steady s u) (bytes : List Byte) : Steady s (u.answer bytes) :=
  h.trans (.of_frame ⟨rfl, rfl, rfl, rfl, rfl, rfl⟩)

theorem Steady.settle {s u : State} (h : Steady s u) : Steady s u.settle :=
  h.trans (.of_frame ⟨rfl, rfl, rfl, rfl, rfl, rfl⟩)

/-- The arbiter lets the attempt stand, or begins one in ASSESSING while RUNNING (R15). -/
theorem State.arbitrate_tx (s : State) : s.arbitrate.tx = s.tx
    ∨ s.station = .running ∧ ∃ a, s.arbitrate.tx = some a ∧ a.phase = .assessing := by
  by_cases hidle : s.station = .running ∧ s.tx = none
  · have hend : s.arbitrate.tx = none ∨ ∃ a, s.arbitrate.tx = some a ∧ a.phase = .assessing := by
      refine State.arbitrateUpTo_induct (P := fun u => u.tx = none ∨ ∃ a, u.tx = some a ∧ a.phase = .assessing)
        (fun u o _ _ _ _ => ?_) 19 s (.inl hidle.2)
      cases hrx : u.rx.busy with
      | false => rw [State.grant_of_idle hrx]; exact .inr ⟨_, rfl, rfl⟩
      | true => rw [State.grant_of_busy hrx]; exact .inl (State.deferOwner_tx ..)
    exact hend.imp (fun h => h.trans hidle.2.symm) fun h => ⟨hidle.1, h⟩
  · exact .inl (by rw [State.arbitrate_of_quiet fun hr hn => absurd ⟨hr, hn⟩ hidle])

theorem Steady.arbitrated (s : State) : Steady s s.arbitrate := by
  by_cases htx : s.arbitrate.tx = s.tx
  · exact .of_frame (by simp [htx])
  · obtain ⟨hrun, a, ha, hp⟩ := s.arbitrate_tx.resolve_left htx
    have hnone : s.tx = none := by
      by_contra hsome
      obtain ⟨b, hb⟩ := Option.ne_none_iff_exists'.1 hsome
      exact htx (by rw [State.arbitrate_of_quiet (quiet_of_tx hb)])
    exact ⟨by simp, by simp, by simp, by simp, by simp, by simp [ha, hnone, Attempt.pastAssessing, hp],
      fun _ _ => .inr hrun⟩

theorem Steady.finish {s u : State} (h : Steady s u) : Steady s u.finish := (h.trans (.arbitrated u)).settle

/-- A busy judgement ends an attempt in ASSESSING alone (R16). -/
theorem Steady.judgedBusy (s : State) : Steady s s.judgeBusy := by
  unfold State.judgeBusy
  split
  · next a ha =>
    split
    · next hp => exact .of_ended (by simp [State.deferOwner_tx]) ha hp
    · exact .refl s
  · exact .refl s

/-- A cancelled attempt leaves the transmitter IDLE (R19). -/
theorem State.cancelOwner_tx (s : State) (o : Owner) : (s.cancelOwner o).tx = none := by
  unfold State.cancelOwner
  dsimp only
  repeat' split
  all_goals rfl

/-- STOP_SURVEY ends an attempt in ASSESSING alone (R176). -/
theorem Steady.cancelledSurvey (s : State) : Steady s s.cancelSurvey := by
  unfold State.cancelSurvey
  split
  · next a ha =>
    split
    · next hp => exact .of_ended (by simp [State.cancelOwner_tx]) ha hp.1
    · exact .refl s
  · exact .refl s

/-- An accepted SUBMIT reaches relay engine, seen list, store and slots (R156). -/
theorem Steady.submitted (s : State) (goal : Goal) (dest : Address) (hops : Byte) (payload : List Byte) :
    Steady s (s.acceptSubmit goal dest hops payload) := by
  unfold State.acceptSubmit State.seeded
  split
  · next s1 chain k halloc hslot =>
    rw [State.allocate_frame halloc]
    refine .of_frame ?_
    cases s.serial <;> simp
  · exact .refl s
  · exact .refl s

/-! ### Outcomes that leave station and radio as they were -/

/-- Every next state of an outcome leaves station and radio as they were in `s`. -/
def SteadyTo (s : State) (o : Host.Outcome State Fault Refusal) : Prop := ∀ u, o = .next u → Steady s u

theorem Steady.next {s u : State} (h : Steady s u) : SteadyTo s (.next u) := fun _ hv => by cases hv; exact h

theorem SteadyTo.of_frame {s u : State} (h : u.station = s.station ∧ u.loader = s.loader ∧ u.record = s.record
    ∧ u.alternation = s.alternation ∧ u.rx = s.rx ∧ u.tx = s.tx) : SteadyTo s (.next u) := (Steady.of_frame h).next

theorem SteadyTo.of_on {s u : State} (h : u.station = s.station ∧ u.loader = s.loader ∧ u.record = s.record
    ∧ u.alternation = s.alternation ∧ u.tx = s.tx) (hs : s.rx ≠ .off) (hu : u.rx ≠ .off) : SteadyTo s (.next u) :=
  (Steady.of_on h hs hu).next

theorem SteadyTo.advance (s : State) (t : Time) : SteadyTo s (.next (s.advance t)) := (Steady.advance s t).next

/-- An effect that leaves station and radio as they were does so behind the judgement by station state (R163). -/
theorem SteadyTo.port (s : State) (t : Time) (c : PortClass) {effect : State → State}
    (h : ∀ s, Steady s (effect s)) : SteadyTo s (.next ((s.advance t).port c effect)) := by
  refine ((Steady.advance s t).trans ?_).next
  unfold State.port
  split
  · exact (Steady.refl _).answer _
  · exact h _

/-- A received frame is discarded or handed off; the receiver is on before and after (R10, R12, R13). -/
theorem SteadyTo.receive (s : State) (t : Time) (bad : Bool) (sender : Address) {handOff : State → State}
    (h : ∀ s, Steady s (handOff s)) : SteadyTo s (.next ((s.advance t).receive bad sender handOff)) := by
  refine ((Steady.advance s t).trans ?_).next
  unfold State.receive
  split
  · next hrx =>
    have hon : (s.advance t).rx ≠ .off := fun hoff => by rw [hoff] at hrx; cases hrx
    have searching (f : Stats → Stats) : Steady (s.advance t) (State.count { s.advance t with rx := .searching } f) :=
      .of_on ⟨rfl, rfl, rfl, rfl, rfl⟩ hon (by simp)
    split
    · exact searching Stats.addBad
    · split
      · exact searching Stats.addOwn
      · exact ((searching Stats.addGood).trans (h _)).finish
  · exact .refl _

/-- The commands whose rows move the station state, the loader, the alternation, or an attempt past ASSESSING. -/
def movesStation : Instr → Bool
  | .powerOn _ | .resetLine _ | .resetRelease _ | .configStatusPoll _ _ | .configLoadTimeout _ | .configReadDone _ _ => true
  | .ccaClear _ | .settlingEnd _ | .preambleSent _ | .bodyEnd _ | .indicatorAlternation _ => true
  | .configure _ _ | .silence _ | .resume _ | .restart _ => true
  | _ => false

/-- A whole unit leaves the receiver on (R9). -/
theorem afterUnit_on {rate : Rate} {unit : Byte} {r : Receiver} (h : afterUnit rate unit = some r) : r ≠ .off := by
  unfold afterUnit at h
  split at h
  · cases h; simp
  · split at h
    · cases h; simp
    · cases h

theorem steadyTo_preambleDetected (s : State) (t : Time) (rate : Rate) (unit : Byte) :
    SteadyTo s (execPreambleDetected t rate unit s) := by
  unfold execPreambleDetected
  dsimp only
  split
  · next r hrx hunit =>
    have hon : Steady s { s.advance t with rx := r } :=
      .of_on ⟨rfl, rfl, rfl, rfl, rfl⟩ (by rw [show s.rx = .searching from hrx]; simp) (afterUnit_on hunit)
    exact (hon.trans (.judgedBusy _)).finish.next
  all_goals exact .advance s t

theorem steadyTo_startMark (s : State) (t : Time) : SteadyTo s (execStartMark t s) := by
  unfold execStartMark
  dsimp only
  split
  · next rate hrx =>
    exact .of_on ⟨rfl, rfl, rfl, rfl, rfl⟩ (by rw [show s.rx = .awaiting rate from hrx]; simp) (by simp)
  all_goals exact .advance s t

theorem steadyTo_preambleEndNoFrame (s : State) (t : Time) (unit : Byte) :
    SteadyTo s (execPreambleEndNoFrame t unit s) := by
  unfold execPreambleEndNoFrame
  dsimp only
  split
  · next rate hrx =>
    split
    · exact .of_on ⟨rfl, rfl, rfl, rfl, rfl⟩ (by rw [show s.rx = .awaiting rate from hrx]; simp) (by simp)
    · exact .advance s t
  all_goals exact .advance s t

/-- A frame given up while it is received (R10). -/
theorem steadyTo_discard (s : State) (t : Time) {p : Prop} [Decidable p] (h : p → s.rx.isReceiving = true) :
    SteadyTo s (if p then .next (s.advance t).discardBad else .next (s.advance t)) := by
  split
  · next hp =>
    exact .of_on ⟨rfl, rfl, rfl, rfl, rfl⟩ (fun hoff => by have := h hp; rw [hoff] at this; cases this)
      (show Receiver.searching ≠ .off by simp)
  · exact .advance s t

/-- The rows of the deadlines of beacon, HUSH and survey: a request at the end of a timer (R51, R52, R54, R112, R175). -/
theorem steadyTo_timer {s v : State} {t : Time} {p : Prop} [Decidable p] (h : Steady s v) :
    SteadyTo s (if p then .next v.finish else .next (s.advance t)) := by
  split
  · exact h.finish.next
  · exact .advance s t

theorem steadyTo_beaconReplacement (s : State) (t : Time) : SteadyTo s (execBeaconReplacementExpiry t s) := by
  unfold execBeaconReplacementExpiry
  dsimp only
  split
  · exact steadyTo_timer (.of_frame ⟨rfl, rfl, rfl, rfl, rfl, rfl⟩)
  · exact steadyTo_timer (.of_frame ⟨rfl, rfl, rfl, rfl, rfl, rfl⟩)
  · split
    · exact .of_frame ⟨rfl, rfl, rfl, rfl, rfl, rfl⟩
    · exact .advance s t
  all_goals exact .advance s t

theorem steadyTo_neighbourDue (s : State) (t : Time) (slot : Fin 32) :
    SteadyTo s (execNeighbourDueExpiry t slot s) := by
  unfold execNeighbourDueExpiry
  dsimp only
  split
  · split
    · exact (Steady.of_frame (by simp)).settle.next
    · exact .advance s t
  · exact .advance s t

theorem steadyTo_holdDeadline (s : State) (t : Time) (i : Fin 16) : SteadyTo s (execHoldDeadlineExpiry t i s) := by
  unfold execHoldDeadlineExpiry
  dsimp only
  split
  · exact steadyTo_timer (.of_frame (by simp))
  · exact .advance s t

theorem steadyTo_echoDeadline (s : State) (t : Time) (i : Fin 16) : SteadyTo s (execEchoDeadlineExpiry t i s) := by
  unfold execEchoDeadlineExpiry
  dsimp only
  split
  · split
    · exact (Steady.of_frame (by simp)).settle.next
    · exact .advance s t
  · exact .advance s t

/-- The rows of one deadline: what its record asks for, or nothing (R51, R52, R112, R175). -/
theorem steadyTo_deadlines (s : State) (t : Time) : SteadyTo s (execBeaconDueExpiry t s)
    ∧ SteadyTo s (execBeaconBackoffExpiry t s) ∧ SteadyTo s (execHushBackoffExpiry t s)
    ∧ SteadyTo s (execSurveyIntervalExpiry t s) ∧ SteadyTo s (execSurveyBackoffExpiry t s) := by
  unfold execBeaconDueExpiry execBeaconBackoffExpiry execHushBackoffExpiry execSurveyIntervalExpiry
    execSurveyBackoffExpiry
  dsimp only
  refine ⟨?_, ?_, ?_, ?_, ?_⟩ <;> split <;> first
    | exact .advance s t
    | exact steadyTo_timer (.of_frame ⟨rfl, rfl, rfl, rfl, rfl, rfl⟩)

theorem steadyTo_stretch (s : State) (t : Time) : SteadyTo s (execStretchExpiry t s) := by
  unfold execStretchExpiry
  dsimp only
  split
  · split
    · exact .of_frame ⟨rfl, rfl, rfl, rfl, rfl, rfl⟩
    · exact .advance s t
  · exact .advance s t

theorem steadyTo_busyLevelRise (s : State) (t : Time) (level : Int) : SteadyTo s (execBusyLevelRise t level s) :=
  steadyTo_timer ((Steady.advance s t).trans (.judgedBusy _))

theorem steadyTo_badCommand (s : State) (t : Time) (code : Byte) : SteadyTo s (execBadCommand t code s) := by
  unfold execBadCommand
  dsimp only
  split
  · exact .advance s t
  · exact ((Steady.advance s t).answer _).next

theorem steadyTo_endedEarly (s : State) (t : Time) (n : Nat) : SteadyTo s (execTransactionEndedEarly t n s) := by
  unfold execTransactionEndedEarly
  dsimp only
  split
  · split
    · exact .of_frame ⟨rfl, rfl, rfl, rfl, rfl, rfl⟩
    · exact .advance s t
  all_goals exact .advance s t

theorem steadyTo_submit (s : State) (t : Time) (discipline target : Byte) (dest : Address) (hops : Byte)
    (payload : List Byte) : SteadyTo s (execSubmit t discipline target dest hops payload s) := by
  refine .port s t _ fun v => ?_
  split
  · exact (Steady.refl v).answer _
  · exact (Steady.submitted v ..).settle

theorem steadyTo_originStatus (s : State) (t : Time) (slot : Byte) : SteadyTo s (execOriginStatus t slot s) := by
  refine .port s t _ fun v => ?_
  split
  · exact Steady.settle (.of_frame ⟨rfl, rfl, rfl, rfl, rfl, rfl⟩)
  · exact (Steady.refl v).answer _

theorem steadyTo_fetch (s : State) (t : Time) (n : Byte) : SteadyTo s (execFetch t n s) := by
  refine .port s t _ fun v => ?_
  split
  · exact (Steady.refl v).answer _
  · exact .of_frame ⟨rfl, rfl, rfl, rfl, rfl, rfl⟩

theorem steadyTo_release (s : State) (t : Time) : SteadyTo s (execRelease t s) := by
  refine .port s t _ fun v => ?_
  split
  · exact (Steady.refl v).answer _
  · exact .of_frame ⟨rfl, rfl, rfl, rfl, rfl, rfl⟩

theorem steadyTo_survey (s : State) (t : Time) (count interval : BitVec 16) (rate fill : Byte) :
    SteadyTo s (execSurvey t count interval rate fill s) := by
  refine .port s t _ fun v => ?_
  split
  · refine Steady.answer (Steady.finish ?_) _
    exact .of_frame ⟨rfl, rfl, rfl, rfl, rfl, rfl⟩
  · exact (Steady.refl v).answer _

theorem steadyTo_stopSurvey (s : State) (t : Time) : SteadyTo s (execStopSurvey t s) :=
  .port s t _ fun v => ((Steady.cancelledSurvey v).trans (.of_frame (by simp))).finish.answer _

/-- Every other row leaves station and radio as they were. -/
theorem exec_steady (c : Instr) (s : State) (hc : movesStation c = false) : SteadyTo s (exec c s) := by
  have frame {u v : State} (h : v.station = u.station ∧ v.loader = u.loader ∧ v.record = u.record
      ∧ v.alternation = u.alternation ∧ v.rx = u.rx ∧ v.tx = u.tx) : Steady u v := .of_frame h
  cases c with
  | powerOn _ | resetLine _ | resetRelease _ | configStatusPoll _ _ | configLoadTimeout _ | configReadDone _ _
  | ccaClear _ | settlingEnd _ | preambleSent _ | bodyEnd _ | indicatorAlternation _
  | configure _ _ | silence _ | resume _ | restart _ => cases hc
  | preambleDetected t rate unit => exact steadyTo_preambleDetected s t rate unit
  | startMark t => exact steadyTo_startMark s t
  | preambleEndNoFrame t unit => exact steadyTo_preambleEndNoFrame s t unit
  | carryHeaderComplete t header => exact steadyTo_discard s t fun h => h.1
  | frameLost loss => exact steadyTo_discard s loss.time fun h => h.1
  | beaconReceived t header check levels => exact .receive s t _ _ fun v => frame (by simp)
  | carryReceived t header payload check levels => exact .receive s t _ _ fun v => frame (by simp)
  | hushReceived t header check levels => exact .receive s t _ _ fun v => frame (by simp)
  | surveyReceived t header fill check levels => exact .receive s t _ _ fun v => frame ⟨rfl, rfl, rfl, rfl, rfl, rfl⟩
  | busyLevelRise t level => exact steadyTo_busyLevelRise s t level
  | neighbourDueExpiry t slot => exact steadyTo_neighbourDue s t slot
  | beaconDueExpiry t => exact (steadyTo_deadlines s t).1
  | beaconBackoffExpiry t => exact (steadyTo_deadlines s t).2.1
  | beaconReplacementExpiry t => exact steadyTo_beaconReplacement s t
  | holdDeadlineExpiry t i => exact steadyTo_holdDeadline s t i
  | echoDeadlineExpiry t i => exact steadyTo_echoDeadline s t i
  | hushBackoffExpiry t => exact (steadyTo_deadlines s t).2.2.1
  | surveyIntervalExpiry t => exact (steadyTo_deadlines s t).2.2.2.1
  | surveyBackoffExpiry t => exact (steadyTo_deadlines s t).2.2.2.2
  | stretchExpiry t => exact steadyTo_stretch s t
  | lselRiseAbort t => exact .advance s t
  | status t => exact .port s t _ fun v => (Steady.refl v).answer _
  | submit t discipline target dest hops payload => exact steadyTo_submit s t discipline target dest hops payload
  | originStatus t slot => exact steadyTo_originStatus s t slot
  | fetch t n => exact steadyTo_fetch s t n
  | release t => exact steadyTo_release s t
  | readEvents t => exact .port s t _ fun v => frame ⟨rfl, rfl, rfl, rfl, rfl, rfl⟩
  | clearEvents t selection => exact .port s t _ fun v => frame ⟨rfl, rfl, rfl, rfl, rfl, rfl⟩
  | setEvents t masks modes latches => exact .port s t _ fun v => frame ⟨rfl, rfl, rfl, rfl, rfl, rfl⟩
  | readTable t => exact .port s t _ fun v => frame ⟨rfl, rfl, rfl, rfl, rfl, rfl⟩
  | readStats t clear => exact .port s t _ fun v => frame ⟨rfl, rfl, rfl, rfl, rfl, rfl⟩
  | survey t count interval rate fill => exact steadyTo_survey s t count interval rate fill
  | stopSurvey t => exact steadyTo_stopSurvey s t
  | readSurvey t clear => exact .port s t _ fun v => frame ⟨rfl, rfl, rfl, rfl, rfl, rfl⟩
  | badCommand t code => exact steadyTo_badCommand s t code
  | transactionEndedEarly t n => exact steadyTo_endedEarly s t n

end Sys2Proof.Machine
end

section
namespace Sys2Proof.Machine

/-! ### Records (R183) -/

/-- A field with a range of its own is clamped into it (R183). -/
theorem fieldAt_range (bytes : Nat → Byte) (k lo hi : Nat)
    (h : (fieldRanges.find? fun r => r.1 = k) = some (k, lo, hi) ∧ lo ≤ hi) :
    lo ≤ fieldAt bytes k ∧ fieldAt bytes k ≤ hi := by
  obtain ⟨hfind, hle⟩ := h
  simp only [fieldAt, hfind, clampTo]
  omega

theorem rateCode_rateOf {n : Nat} (h : n ≤ 2) : rateCode (rateOf n) = n := by
  interval_cases n <;> rfl

/-- A record whose node address names a station is in range once it is clamped (R183). -/
theorem recordOf_inRange {bytes : Nat → Byte} (h : noStation (recordNode bytes) = false) :
    (recordOf bytes).inRange := by
  have range := fieldAt_range bytes
  have hmax := range 23 0 2 (by decide)
  have hdense := range 29 2 32 (by decide)
  refine ⟨h, range 9 2 60 (by decide), range 10 1 7 (by decide), range 11 2 15 (by decide),
    (range 12 0 30 (by decide)).2, range 13 1 31 (by decide), (range 14 0 255 (by decide)).2,
    (range 15 0 15 (by decide)).2, range 16 1 7 (by decide), (range 17 0 3 (by decide)).2, range 18 1 31 (by decide),
    range 19 1 8 (by decide), (range 20 0 63 (by decide)).2, range 21 1 15 (by decide), ?_, range 24 2 7 (by decide),
    range 25 4 31 (by decide), min_le_right _ _, (range 27 0 255 (by decide)).2, range 28 1 32 (by decide), hdense,
    ?_, ?_⟩
  · show rateCode (rateOf (min (fieldAt bytes 22) (fieldAt bytes 23))) ≤ rateCode (rateOf (fieldAt bytes 23))
    rw [rateCode_rateOf (by omega), rateCode_rateOf hmax.2]
    exact min_le_right _ _
  · show min (fieldAt bytes 30) (fieldAt bytes 29 - 1) < fieldAt bytes 29
    omega
  · show stretchOf _ = 50 ∨ stretchOf _ = 100 ∨ stretchOf _ = 200 ∨ stretchOf _ = 400
    unfold stretchOf
    split <;> simp

/-! ### The radio law by station state (R8, R180) -/

/-- A station that has not entered RUNNING is at its reset values (R180, R181). -/
theorem StartLaw.atReset {s : State} (hs : StartLaw s) (hb : s.station = .loading ∨ s.station = .awaitingConfig) :
    AtReset s := by
  unfold StartLaw at hs
  rcases hb with hb | hb <;> rw [hb] at hs <;> exact hs.1

/-- A station that has not entered RUNNING has its radio OFF and IDLE (R180). -/
theorem radioLaw_of_before {u : State} (hs : StartLaw u) (hb : u.station = .loading ∨ u.station = .awaitingConfig) :
    RadioLaw u := by
  obtain ⟨-, hrx, htx, -⟩ := hs.atReset hb
  exact ⟨hs, fun a ha => by simp [htx] at ha, by simp [hrx, hb]⟩

/-- The radio law of a station that is RUNNING or SILENT (R8, R14, R17). -/
theorem radioLaw_of_duty {u : State} (hd : u.station = .running ∨ u.station = .silent)
    (hstart : (∃ r, u.record = some r ∧ r.inRange) ∧ u.loader = .idle ∧ u.alternation = none)
    (htx : ∀ a, u.tx = some a → u.station = .running ∨ u.station = .silent ∧ a.pastAssessing)
    (hrx : u.rx = .off ↔ u.tx.any Attempt.pastAssessing) : RadioLaw u := by
  refine ⟨?_, htx, ?_⟩
  · unfold StartLaw
    rcases hd with hd | hd <;> rw [hd] <;> exact hstart
  · rw [hrx]
    rcases hd with hd | hd <;> simp [hd]

/-- The start-up law of a station that is RUNNING or SILENT (R184). -/
theorem StartLaw.duty {s : State} (hs : StartLaw s) (hd : s.station = .running ∨ s.station = .silent) :
    (∃ r, s.record = some r ∧ r.inRange) ∧ s.loader = .idle ∧ s.alternation = none := by
  unfold StartLaw at hs
  rcases hd with hd | hd <;> rw [hd] at hs <;> exact hs

/-- On duty the receiver is OFF exactly past ASSESSING (R8). -/
theorem RadioLaw.off_iff {s : State} (hs : RadioLaw s) (hd : s.station = .running ∨ s.station = .silent) :
    s.rx = .off ↔ s.tx.any Attempt.pastAssessing := by
  rw [hs.2.2]
  rcases hd with hd | hd <;> simp [hd]

/-- What leaves station and radio as they were keeps the law of a station on duty. -/
theorem RadioLaw.steady {s u : State} (hs : RadioLaw s) (hd : s.station = .running ∨ s.station = .silent)
    (h : Steady s u) : RadioLaw u := by
  refine radioLaw_of_duty (by rw [h.station]; exact hd) ?_ (fun a ha => ?_) ?_
  · rw [h.record, h.loader, h.alternation]
    exact hs.1.duty hd
  · rw [h.station]
    exact (h.begun a ha).elim (hs.2.1 a) .inl
  · rw [h.off, h.past]
    exact hs.off_iff hd

/-- A reset returns every block to its reset values (R181). -/
theorem atReset_resetBlocks (s : State) : AtReset s.resetBlocks :=
  ⟨rfl, rfl, rfl, rfl, rfl, rfl, rfl, rfl, rfl, rfl, rfl, rfl, rfl, rfl, rfl, rfl, rfl, rfl, rfl, rfl, rfl, rfl, rfl,
    rfl, rfl, rfl, rfl, rfl, rfl, rfl, rfl, rfl⟩

/-- Reset values have the law (R181). -/
theorem radioLaw_resetBlocks (s : State) : RadioLaw s.resetBlocks :=
  radioLaw_of_before (show AtReset s.resetBlocks ∧ Loader.held ≠ .idle ∧ _ from
    ⟨atReset_resetBlocks s, by simp, rfl⟩) (.inl rfl)

/-- A station that comes to await its configuration at reset values has the law (R182). -/
theorem radioLaw_awaitConfig {s : State} (h : AtReset s) : RadioLaw s.awaitConfig :=
  radioLaw_of_before (show AtReset s ∧ Loader.idle = .idle ∧ _ from ⟨h, rfl, rfl⟩) (.inr rfl)

/-- The acceptance of a record in range begins RUNNING with the receiver on (R184). -/
theorem radioLaw_acceptRecord {s : State} {r : Record} (hr : r.inRange) (htx : s.tx = none) :
    RadioLaw (s.acceptRecord r) := by
  have hnone : (s.acceptRecord r).tx = none := htx
  have hon : (s.acceptRecord r).rx = .searching := rfl
  exact radioLaw_of_duty (.inl rfl) ⟨⟨r, rfl, hr⟩, rfl, rfl⟩ (fun a ha => by simp [hnone] at ha) (by simp [hnone, hon])

/-- The same of the record in a load or a CONFIGURE (R182, R185). -/
theorem radioLaw_acceptBytes {s : State} {bytes : Nat → Byte} (hn : noStation (recordNode bytes) = false)
    (htx : s.tx = none) : RadioLaw (s.acceptBytes bytes) := by
  refine (radioLaw_acceptRecord (recordOf_inRange hn) htx).steady (.inl rfl) ?_
  unfold State.acceptBytes
  dsimp only
  split <;> exact .of_frame ⟨rfl, rfl, rfl, rfl, rfl, rfl⟩

theorem State.acceptBytes_station (s : State) (bytes : Nat → Byte) : (s.acceptBytes bytes).station = .running := by
  unfold State.acceptBytes
  dsimp only
  split <;> rfl

/-- An answer leaves the law of a station on duty as it is (R161). -/
theorem RadioLaw.answer {s : State} (hs : RadioLaw s) (hd : s.station = .running ∨ s.station = .silent)
    (bytes : List Byte) : RadioLaw (s.answer bytes) := hs.steady hd ((Steady.refl s).answer bytes)

/-! ### A station before RUNNING (R163, R180 to R185) -/

/-- No FETCH is open before RUNNING, so an answer leaves the reset values as they are (log 7). -/
theorem AtReset.answer {s : State} (h : AtReset s) (bytes : List Byte) : AtReset (s.answer bytes) := by
  have hfetch : s.fetching = none := by
    obtain ⟨-, -, -, -, -, -, -, -, -, -, -, -, -, -, -, -, -, -, -, -, -, -, -, -, hfetch, -⟩ := h
    exact hfetch
  cases s
  subst hfetch
  exact h

/-- Before RUNNING the lamp port refuses every command but STATUS, CONFIGURE and RESTART (R163). -/
theorem State.port_before {s : State} (hb : s.station = .loading ∨ s.station = .awaitingConfig) {c : PortClass}
    (hc : c ≠ .status ∧ c ≠ .configure ∧ c ≠ .restart) (effect : State → State) :
    s.port c effect = s.answer [Result.notReady.code] := by
  unfold State.port
  cases c <;> rcases hb with hb | hb <;> rw [hb] <;> first
    | rfl
    | simp at hc

/-- Before RUNNING a command without effect keeps the law (log 2). -/
theorem StartLaw.radio_advance {s : State} (hs : StartLaw s)
    (hb : s.station = .loading ∨ s.station = .awaitingConfig) (t : Time) : RadioLaw (s.advance t) :=
  radioLaw_of_before hs hb

/-- Before RUNNING a command that is answered alone keeps the law (R163). -/
theorem StartLaw.radio_answer {s : State} (hs : StartLaw s)
    (hb : s.station = .loading ∨ s.station = .awaitingConfig) (t : Time) (bytes : List Byte) :
    RadioLaw ((s.advance t).answer bytes) := by
  have hreset : AtReset ((s.advance t).answer bytes) := AtReset.answer (s := s.advance t) (hs.atReset hb) bytes
  refine radioLaw_of_before ?_ hb
  unfold StartLaw at hs ⊢
  rcases hb with hb | hb <;> simp only [State.answer_station, State.advance_station, hb] at hs ⊢ <;>
    exact ⟨hreset, hs.2⟩

/-- A loader at work belongs to LOADING (R182). -/
theorem StartLaw.loading {s : State} (hs : StartLaw s) (hl : s.loader ≠ .idle) :
    s.station = .loading ∧ s.alternation = none := by
  unfold StartLaw at hs
  cases hstation : s.station <;> rw [hstation] at hs
  · exact ⟨rfl, hs.2.2⟩
  all_goals exact absurd hs.2.1 hl

/-- With the receiver OFF no frame is taken (R8). -/
theorem State.receive_off {s : State} (h : s.rx = .off) (bad : Bool) (sender : Address) (handOff : State → State) :
    s.receive bad sender handOff = s := by
  rw [State.receive, h]
  rfl

/-- Reset values stay with every row that moves neither station nor radio: the event does not occur, or the lamp port
answers (R163, R181; log 2). -/
theorem exec_atReset {c : Instr} {s : State} (hc : movesStation c = false) (h : AtReset s)
    (hb : s.station = .loading ∨ s.station = .awaitingConfig) : ∃ u, exec c s = .next u ∧ AtReset u := by
  have still (t : Time) (he : exec c s = .next (s.advance t)) : ∃ u, exec c s = .next u ∧ AtReset u := ⟨_, he, h⟩
  have answered (t : Time) (bytes : List Byte) (he : exec c s = .next ((s.advance t).answer bytes)) :
      ∃ u, exec c s = .next u ∧ AtReset u := ⟨_, he, AtReset.answer (s := s.advance t) h bytes⟩
  have refused (t : Time) (k : PortClass) (effect : State → State)
      (he : exec c s = .next ((s.advance t).port k effect)) (hk : k ≠ .status ∧ k ≠ .configure ∧ k ≠ .restart) :
      ∃ u, exec c s = .next u ∧ AtReset u :=
    answered t [Result.notReady.code] (by rw [he, State.port_before (s := s.advance t) hb hk])
  obtain ⟨-, hrx, htx, -, -, -, htable, -, hbeacon, -, -, hhold, -, hhush, -, -, -, -, -, -, hring, -, -, -, hfetching,
    -, -, -, hstretch, hburst, -⟩ := h
  have receives (t : Time) (bad : Bool) (sender : Address) (handOff : State → State)
      (he : exec c s = .next ((s.advance t).receive bad sender handOff)) : ∃ u, exec c s = .next u ∧ AtReset u :=
    still t (by rw [he, State.receive_off (s := s.advance t) hrx])
  cases c with
  | powerOn _ | resetLine _ | resetRelease _ | configStatusPoll _ _ | configLoadTimeout _ | configReadDone _ _
  | ccaClear _ | settlingEnd _ | preambleSent _ | bodyEnd _ | indicatorAlternation _
  | configure _ _ | silence _ | resume _ | restart _ => cases hc
  | preambleDetected t rate unit => exact still t (by simp [exec, execPreambleDetected, hrx])
  | startMark t => exact still t (by simp [exec, execStartMark, hrx])
  | preambleEndNoFrame t unit => exact still t (by simp [exec, execPreambleEndNoFrame, hrx])
  | carryHeaderComplete t header => exact still t (by simp [exec, execCarryHeaderComplete, hrx, Receiver.isReceiving])
  | frameLost loss => exact still loss.time (by simp [exec, execFrameLost, hrx, Receiver.isReceiving])
  | beaconReceived t header check levels => exact receives t _ _ _ rfl
  | carryReceived t header payload check levels => exact receives t _ _ _ rfl
  | hushReceived t header check levels => exact receives t _ _ _ rfl
  | surveyReceived t header fill check levels => exact receives t _ _ _ rfl
  | busyLevelRise t level => exact still t (by simp [exec, execBusyLevelRise, State.assessing, htx])
  | neighbourDueExpiry t slot => exact still t (by simp [exec, execNeighbourDueExpiry, htable])
  | beaconDueExpiry t => exact still t (by simp [exec, execBeaconDueExpiry, hbeacon])
  | beaconBackoffExpiry t => exact still t (by simp [exec, execBeaconBackoffExpiry, hbeacon])
  | beaconReplacementExpiry t => exact still t (by simp [exec, execBeaconReplacementExpiry, hbeacon])
  | holdDeadlineExpiry t i => exact still t (by simp [exec, execHoldDeadlineExpiry, hhold])
  | echoDeadlineExpiry t i => exact still t (by simp [exec, execEchoDeadlineExpiry, hhold])
  | hushBackoffExpiry t => exact still t (by simp [exec, execHushBackoffExpiry, hhush])
  | surveyIntervalExpiry t => exact still t (by simp [exec, execSurveyIntervalExpiry, hburst])
  | surveyBackoffExpiry t => exact still t (by simp [exec, execSurveyBackoffExpiry, hburst])
  | stretchExpiry t => exact still t (by simp [exec, execStretchExpiry, hstretch])
  | lselRiseAbort t => exact still t rfl
  | status t => exact answered t _ rfl
  | submit t discipline target dest hops payload => exact refused t .submit _ rfl (by simp)
  | originStatus t slot => exact refused t .other _ rfl (by simp)
  | fetch t n => exact refused t .other _ rfl (by simp)
  | release t => exact refused t .other _ rfl (by simp)
  | readEvents t => exact refused t .other _ rfl (by simp)
  | clearEvents t selection => exact refused t .other _ rfl (by simp)
  | setEvents t masks modes latches => exact refused t .other _ rfl (by simp)
  | readTable t => exact refused t .other _ rfl (by simp)
  | readStats t clear => exact refused t .other _ rfl (by simp)
  | survey t count interval rate fill => exact refused t .survey _ rfl (by simp)
  | stopSurvey t => exact refused t .other _ rfl (by simp)
  | readSurvey t clear => exact refused t .other _ rfl (by simp)
  | badCommand t code =>
    by_cases hcode : commandCodes.contains code
    · exact still t (if_pos hcode)
    · exact answered t _ (if_neg hcode)
  | transactionEndedEarly t n => exact still t (by simp [exec, execTransactionEndedEarly, hfetching])

/-- An attempt whose phase is over stands in that phase, and its end has come (R17). -/
theorem State.phaseOver_eq_some {s : State} {p : Phase} {a : Attempt} :
    s.phaseOver p = some a ↔ s.tx = some a ∧ a.phase = p ∧ a.ends ≤ s.now := by
  unfold State.phaseOver
  split
  · next b hb =>
    rw [hb]
    split
    · next h =>
      constructor
      · rintro ⟨⟩
        exact ⟨rfl, h⟩
      · rintro ⟨⟨⟩, -⟩
        rfl
    · next h =>
      constructor
      · rintro ⟨⟩
      · rintro ⟨⟨⟩, ha⟩
        exact absurd ha h
  · next hn => simp [hn]

/-- Without an attempt no phase is over (R14). -/
theorem State.phaseOver_idle {s : State} (h : s.tx = none) (p : Phase) : s.phaseOver p = none := by
  rw [State.phaseOver, h]

end Sys2Proof.Machine
end

section
namespace Sys2Proof.Machine

/-! ### Every command keeps the radio law (R8, R14, R180) -/

/-- The load's rows keep the law: the load goes on, ends without a record, or accepts one (R181, R182). -/
theorem load_keeps_radio {c : Instr} {s u : State} {t : Time} (hs : StartLaw s)
    (hb : s.station = .loading ∨ s.station = .awaitingConfig)
    (hc : c = .resetRelease t ∨ (∃ status, c = .configStatusPoll t status) ∨ c = .configLoadTimeout t
      ∨ ∃ driven, c = .configReadDone t driven) (h : exec c s = .next u) : RadioLaw u := by
  have hreset : AtReset s := hs.atReset hb
  have still := hs.radio_advance hb t
  have loading (l l' : Loader) (hl : s.loader = l) (hne : l ≠ .idle) (hne' : l' ≠ .idle) :
      RadioLaw { s.advance t with station := .loading, loader := l' } :=
    radioLaw_of_before (show AtReset s ∧ l' ≠ .idle ∧ s.alternation = none from
      ⟨hreset, hne', (hs.loading (hl ▸ hne)).2⟩) (.inl rfl)
  rcases hc with rfl | ⟨status, rfl⟩ | rfl | ⟨driven, rfl⟩
  · simp only [exec, execResetRelease] at h
    split at h <;> cases h
    · next hl => exact loading .held _ hl (by simp) (by simp)
    · exact still
  · simp only [exec, execConfigStatusPoll] at h
    split at h
    · next since hl =>
      split at h <;> cases h
      · have := loading (.polling since) .reading hl (by simp) (by simp)
        rwa [← (hs.loading (by rw [show s.loader = .polling since from hl]; simp)).1] at this
      · exact still
    all_goals cases h; exact still
  · simp only [exec, execConfigLoadTimeout] at h
    split at h
    · split at h <;> cases h
      · exact radioLaw_awaitConfig hreset
      · exact still
    all_goals cases h; exact still
  · simp only [exec, execConfigReadDone] at h
    split at h
    · split at h
      · cases h
        exact radioLaw_awaitConfig hreset
      · split at h <;> cases h
        · exact radioLaw_of_before (radioLaw_awaitConfig hreset).1 (.inr rfl)
        · next hn =>
          obtain ⟨-, -, htx, -⟩ := hreset
          exact radioLaw_acceptBytes (by simpa using hn) htx
    · cases h
      exact still

/-- CONFIGURE before RUNNING is refused, or accepts its record (R163, R185). -/
theorem configure_before_keeps_radio {s u : State} {t : Time} {bytes : List Byte} (hs : StartLaw s)
    (hb : s.station = .loading ∨ s.station = .awaitingConfig) (h : exec (.configure t bytes) s = .next u) :
    RadioLaw u := by
  obtain ⟨-, -, htx, -⟩ := hs.atReset hb
  simp only [exec, execConfigure] at h
  split at h
  · cases h
    exact hs.radio_advance hb t
  · unfold State.port at h
    split at h
    · cases h
      exact hs.radio_answer hb t _
    · split at h <;> cases h
      · exact hs.radio_answer hb t _
      · next hn =>
        exact (radioLaw_acceptBytes (s := s.advance t) (by simpa using hn) htx).answer (.inl (State.acceptBytes_station ..)) _

/-- RESTART before RUNNING is refused, or returns to AWAITING_CONFIG, since no record is held (R163, R186). -/
theorem restart_before_keeps_radio {s u : State} {t : Time} (hs : StartLaw s)
    (hb : s.station = .loading ∨ s.station = .awaitingConfig) (h : exec (.restart t) s = .next u) : RadioLaw u := by
  have hrecord : (s.advance t).record = none := (hs.atReset hb).1
  simp only [exec, execRestart, State.port] at h
  split at h
  · cases h
    exact hs.radio_answer hb t _
  · rw [hrecord] at h
    cases h
    have hawait := radioLaw_awaitConfig (atReset_resetBlocks (s.advance t))
    exact radioLaw_of_before (hawait.1.radio_answer (.inr rfl) 0 [Result.ok.code]).1 (.inr rfl)

/-- The indicator's alternation leaves everything else as it was (R173). -/
theorem alternation_before_keeps_radio {s u : State} {t : Time} (hs : StartLaw s)
    (hb : s.station = .loading ∨ s.station = .awaitingConfig) (h : exec (.indicatorAlternation t) s = .next u) :
    RadioLaw u := by
  have hreset := hs.atReset hb
  simp only [exec, execIndicatorAlternation] at h
  split at h
  · next a ha =>
    split at h <;> cases h
    · refine radioLaw_of_before ?_ hb
      unfold StartLaw at hs ⊢
      rcases hb with hb | hb <;> simp only [State.advance_station, hb] at hs ⊢
      · exact absurd (show s.alternation = some a from ha) (by simp [hs.2.2])
      · exact ⟨hreset, hs.2.1, rfl⟩
    · exact hs.radio_advance hb t
  · cases h
    exact hs.radio_advance hb t

/-- Every command keeps the radio law of a station before RUNNING (R180 to R186). -/
theorem exec_before_keeps_radio {c : Instr} {s u : State} (hs : StartLaw s)
    (hb : s.station = .loading ∨ s.station = .awaitingConfig) (h : exec c s = .next u) : RadioLaw u := by
  have hreset := hs.atReset hb
  have noPhase (t : Time) (p : Phase) : (s.advance t).phaseOver p = none := by
    obtain ⟨-, -, htx, -⟩ := hreset
    exact State.phaseOver_idle (s := s.advance t) htx p
  cases hc : movesStation c with
  | false =>
    obtain ⟨v, hv, hatReset⟩ := exec_atReset hc hreset hb
    obtain rfl : v = u := by rw [hv] at h; cases h; rfl
    have hsteady := exec_steady c s hc v hv
    refine radioLaw_of_before ?_ (by rw [hsteady.station]; exact hb)
    unfold StartLaw at hs ⊢
    rw [hsteady.station, hsteady.loader, hsteady.alternation]
    rcases hb with hb | hb <;> rw [hb] at hs ⊢ <;> exact ⟨hatReset, hs.2⟩
  | true =>
    cases c with
    | powerOn t => cases h; exact radioLaw_resetBlocks _
    | resetLine t => cases h; exact radioLaw_resetBlocks _
    | resetRelease t => exact load_keeps_radio hs hb (.inl rfl) h
    | configStatusPoll t status => exact load_keeps_radio hs hb (.inr (.inl ⟨status, rfl⟩)) h
    | configLoadTimeout t => exact load_keeps_radio hs hb (.inr (.inr (.inl rfl))) h
    | configReadDone t driven => exact load_keeps_radio hs hb (.inr (.inr (.inr ⟨driven, rfl⟩))) h
    | ccaClear t => simp only [exec, execCcaClear, noPhase] at h; cases h; exact hs.radio_advance hb t
    | settlingEnd t => simp only [exec, execSettlingEnd, noPhase] at h; cases h; exact hs.radio_advance hb t
    | preambleSent t => simp only [exec, execPreambleSent, noPhase] at h; cases h; exact hs.radio_advance hb t
    | bodyEnd t => simp only [exec, execBodyEnd, noPhase] at h; cases h; exact hs.radio_advance hb t
    | indicatorAlternation t => exact alternation_before_keeps_radio hs hb h
    | configure t bytes => exact configure_before_keeps_radio hs hb h
    | silence t =>
      simp only [exec, execSilence, State.port_before (s := s.advance t) hb (c := .silence) (by simp)] at h
      cases h; exact hs.radio_answer hb t _
    | resume t =>
      simp only [exec, execResume, State.port_before (s := s.advance t) hb (c := .resume) (by simp)] at h
      cases h; exact hs.radio_answer hb t _
    | restart t => exact restart_before_keeps_radio hs hb h
    | _ => cases hc

theorem Attempt.pastAssessing_iff (a : Attempt) : a.pastAssessing = true ↔ a.phase ≠ .assessing := by
  unfold Attempt.pastAssessing
  cases a.phase <;> simp

/-- CCA_MS clear: SETTLING with the receiver OFF (R16, R17). -/
theorem RadioLaw.cleared {s : State} {a : Attempt} (hs : RadioLaw s)
    (hd : s.station = .running ∨ s.station = .silent) (ha : s.tx = some a) (hp : a.phase = .assessing) :
    RadioLaw (s.clearChannel a) := by
  have hrun : s.station = .running :=
    (hs.2.1 a ha).resolve_right fun h => a.pastAssessing_iff.1 h.2 hp
  obtain ⟨hstart, hloader, halternation⟩ := hs.1.duty hd
  refine radioLaw_of_duty (.inl ?_) ⟨?_, ?_, ?_⟩ (fun _ _ => .inl ?_) ?_ <;> unfold State.clearChannel
  · simpa using hrun
  · simpa using hstart
  · simpa using hloader
  · simpa using halternation
  · simpa using hrun
  · simp [Attempt.pastAssessing]

/-- A phase past ASSESSING follows another (R17). -/
theorem RadioLaw.moved {s u : State} {a b : Attempt} (hs : RadioLaw s)
    (hd : s.station = .running ∨ s.station = .silent) (ha : s.tx = some a) (hb : u.tx = some b)
    (hpast : a.pastAssessing = true ∧ b.pastAssessing = true)
    (h : u.station = s.station ∧ u.loader = s.loader ∧ u.record = s.record ∧ u.alternation = s.alternation
      ∧ u.rx = s.rx) : RadioLaw u := by
  obtain ⟨hstation, hloader, hrecord, halternation, hrx⟩ := h
  refine radioLaw_of_duty (by rwa [hstation]) ?_ (fun c _ => ?_) ?_
  · rw [hrecord, hloader, halternation]
    exact hs.1.duty hd
  · have : c = b := by simp_all
    rw [hstation, this]
    exact hd.imp_right fun h => ⟨h, hpast.2⟩
  · rw [hrx, hs.off_iff hd]
    simp [ha, hb, hpast]

/-- The end of BODY: the transmitter IDLE, the receiver SEARCHING (R17). -/
theorem RadioLaw.ended {s : State} (hs : RadioLaw s) (hd : s.station = .running ∨ s.station = .silent) (a : Attempt) :
    RadioLaw (s.endBody a) := by
  obtain ⟨hstart, hloader, halternation⟩ := hs.1.duty hd
  refine radioLaw_of_duty ?_ ⟨?_, ?_, ?_⟩ (fun b hb => ?_) ?_ <;> unfold State.endBody at *
  · simpa using hd
  · simpa using hstart
  · simpa using hloader
  · simpa using halternation
  · simp at hb
  · simp

/-- SILENCE leaves an attempt past ASSESSING alone, and no other (R19). -/
theorem State.cancelAttempt_tx (s : State) : s.cancelAttempt.tx = s.tx.filter Attempt.pastAssessing := by
  unfold State.cancelAttempt
  split
  · next a ha =>
    split
    · next hp =>
      rw [State.cancelOwner_tx, ha, Option.filter_some_neg]
      simp [Attempt.pastAssessing, hp]
    · next hp => rw [ha, Option.filter_some_pos ((a.pastAssessing_iff).2 hp)]
  · next hn => simp [hn]

/-- SILENCE keeps the law: what it leaves of an attempt is past ASSESSING (R19, R167). -/
theorem RadioLaw.silenced {s : State} (hs : RadioLaw s) (hrun : s.station = .running) : RadioLaw s.silenced := by
  obtain ⟨hstart, hloader, halternation⟩ := hs.1.duty (.inl hrun)
  have htx : s.silenced.tx = s.tx.filter Attempt.pastAssessing := by
    simp only [State.silenced, State.endBurst_frame, State.silenceHolds_frame, State.cancelAttempt_tx]
  refine radioLaw_of_duty (.inr (by simp [State.silenced])) ⟨?_, ?_, ?_⟩ (fun a ha => .inr ⟨by simp [State.silenced], ?_⟩) ?_
  · simpa [State.silenced] using hstart
  · simpa [State.silenced] using hloader
  · simpa [State.silenced] using halternation
  · rw [htx, Option.filter_eq_some_iff] at ha
    exact ha.2
  · rw [htx, show s.silenced.rx = s.rx by simp [State.silenced], hs.off_iff (.inl hrun)]
    cases s.tx <;> simp

/-- RESUME keeps the law (R167). -/
theorem RadioLaw.resumed {s : State} (hs : RadioLaw s) (hd : s.station = .running ∨ s.station = .silent) :
    RadioLaw { s with station := .running } :=
  radioLaw_of_duty (.inl rfl) (hs.1.duty hd) (fun _ _ => .inl rfl) (hs.off_iff hd)

/-- The rows of the transmit sequence keep the law (R16, R17). -/
theorem transmit_keeps_radio {c : Instr} {s u : State} {t : Time} (hs : RadioLaw s)
    (hd : s.station = .running ∨ s.station = .silent)
    (hc : c = .ccaClear t ∨ c = .settlingEnd t ∨ c = .preambleSent t ∨ c = .bodyEnd t) (h : exec c s = .next u) :
    RadioLaw u := by
  have hadvance : RadioLaw (s.advance t) := hs.steady hd (.advance s t)
  have past {a : Attempt} {p : Phase} (hp : a.phase = p) (hne : p ≠ .assessing) : a.pastAssessing = true :=
    a.pastAssessing_iff.2 (hp ▸ hne)
  rcases hc with rfl | rfl | rfl | rfl
  · simp only [exec, execCcaClear] at h
    split at h <;> cases h
    · next a ha =>
      obtain ⟨ha, hp, -⟩ := State.phaseOver_eq_some.1 ha
      exact hadvance.cleared hd ha hp
    · exact hadvance
  · simp only [exec, execSettlingEnd] at h
    split at h <;> cases h
    · next a ha =>
      obtain ⟨ha, hp, -⟩ := State.phaseOver_eq_some.1 ha
      exact hadvance.moved hd ha rfl ⟨past hp (by simp), rfl⟩ ⟨rfl, rfl, rfl, rfl, rfl⟩
    · exact hadvance
  · simp only [exec, execPreambleSent] at h
    split at h <;> cases h
    · next a ha =>
      obtain ⟨ha, hp, -⟩ := State.phaseOver_eq_some.1 ha
      exact hadvance.moved hd ha rfl ⟨past hp (by simp), rfl⟩ ⟨rfl, rfl, rfl, rfl, rfl⟩
    · exact hadvance
  · simp only [exec, execBodyEnd] at h
    split at h <;> cases h
    · next a ha =>
      exact (hadvance.ended hd a).steady (by simpa [State.endBody] using hd) (Steady.refl _).finish
    · exact hadvance

/-- The lamp port's rows of configuration, restart and silence keep the law of a station on duty (R163, R167, R186). -/
theorem lamp_keeps_radio {c : Instr} {s u : State} {t : Time} (hs : RadioLaw s)
    (hd : s.station = .running ∨ s.station = .silent)
    (hc : (∃ bytes, c = .configure t bytes) ∨ c = .silence t ∨ c = .resume t ∨ c = .restart t)
    (h : exec c s = .next u) : RadioLaw u := by
  have hadvance : RadioLaw (s.advance t) := hs.steady hd (.advance s t)
  rcases hc with ⟨bytes, rfl⟩ | rfl | rfl | rfl
  · simp only [exec, execConfigure] at h
    split at h
    · cases h
      exact hadvance
    · have hrefused : portRefusal .configure (s.advance t).station = some .badState := by
        rcases hd with hd | hd <;> simp [hd] <;> rfl
      rw [State.port, hrefused] at h
      cases h
      exact hadvance.answer hd _
  · simp only [exec, execSilence, State.port] at h
    split at h <;> obtain rfl := Host.Outcome.next.inj h
    · exact hadvance.answer hd _
    · next hn =>
      have hrun : (s.advance t).station = .running := hd.resolve_right fun hsilent => by simp [hsilent, portRefusal] at hn
      have hsilenced := hadvance.silenced hrun
      have hstation : (s.advance t).silenced.station = .silent := by simp [State.silenced]
      exact hsilenced.steady (.inr hstation) ((Steady.refl (s.advance t).silenced).settle.answer [Result.ok.code])
  · simp only [exec, execResume, State.port] at h
    split at h <;> cases h
    · exact hadvance.answer hd _
    · exact (hadvance.resumed hd).steady (.inl rfl) ((Steady.refl _).finish.answer _)
  · have htaken : portRefusal .restart (s.advance t).station = none := by
      rcases hd with hd | hd <;> simp [hd] <;> rfl
    obtain ⟨⟨r, hr, hrange⟩, -, -⟩ := hadvance.1.duty hd
    simp only [exec, execRestart, State.port, htaken, hr] at h
    cases h
    exact (radioLaw_acceptRecord (s := (s.advance t).resetBlocks) hrange rfl).steady (.inl rfl)
      ((Steady.refl _).settle.answer _)

/-- Every command keeps the radio law of a station on duty. -/
theorem exec_duty_keeps_radio {c : Instr} {s u : State} (hs : RadioLaw s)
    (hd : s.station = .running ∨ s.station = .silent) (h : exec c s = .next u) : RadioLaw u := by
  have still (t : Time) : RadioLaw (s.advance t) := hs.steady hd (.advance s t)
  obtain ⟨-, hloader, halternation⟩ := hs.1.duty hd
  cases hc : movesStation c with
  | false => exact hs.steady hd (exec_steady c s hc u h)
  | true =>
    cases c with
    | powerOn t => cases h; exact radioLaw_resetBlocks _
    | resetLine t => cases h; exact radioLaw_resetBlocks _
    | resetRelease t => simp [exec, execResetRelease, hloader] at h; cases h; exact still t
    | configStatusPoll t status => simp [exec, execConfigStatusPoll, hloader] at h; cases h; exact still t
    | configLoadTimeout t => simp [exec, execConfigLoadTimeout, hloader] at h; cases h; exact still t
    | configReadDone t driven => simp [exec, execConfigReadDone, hloader] at h; cases h; exact still t
    | ccaClear t => exact transmit_keeps_radio hs hd (.inl rfl) h
    | settlingEnd t => exact transmit_keeps_radio hs hd (.inr (.inl rfl)) h
    | preambleSent t => exact transmit_keeps_radio hs hd (.inr (.inr (.inl rfl))) h
    | bodyEnd t => exact transmit_keeps_radio hs hd (.inr (.inr (.inr rfl))) h
    | indicatorAlternation t => simp [exec, execIndicatorAlternation, halternation] at h; cases h; exact still t
    | configure t bytes => exact lamp_keeps_radio hs hd (.inl ⟨bytes, rfl⟩) h
    | silence t => exact lamp_keeps_radio hs hd (.inr (.inl rfl)) h
    | resume t => exact lamp_keeps_radio hs hd (.inr (.inr (.inl rfl))) h
    | restart t => exact lamp_keeps_radio hs hd (.inr (.inr (.inr rfl))) h
    | _ => cases hc

/-- Every step keeps the radio law. -/
theorem step_keeps_radioLaw : Kept RadioLaw := by
  intro s u hs h
  unfold step at h
  split at h
  · cases h
    exact hs
  · next c rest _ =>
    have hrest : RadioLaw { s with pending := rest } := hs
    cases hstation : s.station with
    | loading => exact exec_before_keeps_radio hrest.1 (.inl hstation) h
    | awaitingConfig => exact exec_before_keeps_radio hrest.1 (.inr hstation) h
    | running => exact exec_duty_keeps_radio hrest (.inl hstation) h
    | silent => exact exec_duty_keeps_radio hrest (.inr hstation) h

/-! ### The pins RFTXON and RFEN (R8, R131) -/

theorem State.rftxon_iff (s : State) : s.rftxon = true ↔ ∃ a, s.tx = some a ∧ a.phase ≠ .assessing := by
  simp only [State.rftxon, Option.any_eq_true, Attempt.pastAssessing_iff]

theorem State.rfen_iff (s : State) : s.rfen = true ↔ s.rx ≠ .off ∨ s.rftxon = true := by
  simp [State.rfen]

/-- RFEN is asserted throughout RUNNING and SILENT, and released before (R8). -/
theorem RadioLaw.rfen_iff_duty {s : State} (hs : RadioLaw s) :
    s.rfen = true ↔ s.station = .running ∨ s.station = .silent := by
  rw [State.rfen_iff]
  constructor
  · rintro (hon | hpast)
    · rw [Ne, hs.2.2, not_or] at hon
      cases hstation : s.station <;> simp [hstation] at hon ⊢
    · obtain ⟨a, ha, -⟩ := s.rftxon_iff.1 hpast
      exact (hs.2.1 a ha).imp_right fun h => h.1
  · intro hd
    by_cases hoff : s.rx = .off
    · exact .inr ((hs.off_iff hd).1 hoff)
    · exact .inl hoff

/-- Settles O57: a step keeps the law row by row, before RUNNING from the reset values and on duty from what each row
leaves of station and radio; the pins are read off the law. -/
theorem radioLawIsKept : Obligations.RadioLawIsKept :=
  ⟨step_keeps_radioLaw, fun s => ⟨s.rftxon_iff, by rw [s.rfen_iff, s.rftxon_iff], RadioLaw.rfen_iff_duty⟩⟩

end Sys2Proof.Machine
end

section
namespace Sys2Proof.Machine

/-! ### Losses and malformed headers (R10) -/

/-- A frame is lost where eight of its readings in a row are below sensitivity (R10). -/
theorem lostLevel_iff_below (levels : List Int) : lostLevel levels = true ↔ Claim.Below levels levels.length :=
  lostLevel_iff levels

/-- The loss judged from the first `n` readings (R10). -/
theorem lostLevel_take_iff {levels : List Int} {n : Nat} (hn : n ≤ levels.length) :
    lostLevel (levels.take n) = true ↔ Claim.Below levels n := by
  rw [lostLevel_iff, List.length_take, Nat.min_eq_left hn]
  refine exists_congr fun i => and_congr_right fun hi => forall₂_congr fun k hk => ?_
  rw [List.getD_eq_getElem?_getD, List.getElem?_take_of_lt (by omega), ← List.getD_eq_getElem?_getD]

/-- The loss of a frame before its last check bit (R10, log 24). -/
theorem lostBeforeEnd_iff (levels : List Int) :
    lostBeforeEnd levels = true ↔ Claim.Below levels (levels.length - 1) := by
  rw [lostBeforeEnd, List.dropLast_eq_take, lostLevel_take_iff (by omega)]

/-- The first two malformed cases, by their header fields (R10). -/
theorem carryMalformed_iff (h : CarryHeader) : carryMalformed h = true ↔
    112 < h.length.toNat ∨ h.discipline = .upward ∧ h.target.extractLsb' 2 6 ≠ 0#6 := by
  have hhigh : h.target.extractLsb' 2 6 ≠ 0#6 ↔ 4 ≤ h.target.toNat := by
    have hlt := h.target.isLt
    rw [Ne, ← BitVec.toNat_inj, BitVec.extractLsb'_toNat, Nat.shiftRight_eq_div_pow]
    simp only [BitVec.toNat_ofNat]
    omega
  rw [hhigh]
  simp [carryMalformed]

/-- A header that is not malformed (R10). -/
theorem carryMalformed_eq_false {h : CarryHeader} (hlen : h.length.toNat ≤ 112)
    (htarget : h.discipline = .upward → h.target.extractLsb' 2 6 = 0#6) : carryMalformed h = false := by
  rw [Bool.eq_false_iff, Ne, carryMalformed_iff]
  rintro (h | ⟨hup, hne⟩)
  · omega
  · exact hne (htarget hup)

theorem noStation_iff (a : Address) : noStation a = true ↔ a = 0 ∨ a = 65535 := by
  simp [noStation]

/-! ### Discarded frames (R10, R12) -/

/-- A bad frame is counted in frames_bad and discarded (R12). -/
theorem State.receive_bad {s : State} {bad : Bool} (hrx : s.rx.isReceiving = true) (hbad : bad = true)
    (sender : Address) (handOff : State → State) : s.receive bad sender handOff = s.discardBad := by
  rw [State.receive, if_pos hrx, if_pos hbad]

/-- A checked frame from the own address is counted in own_echo_or_stale and discarded (R12). -/
theorem State.receive_own {s : State} {bad : Bool} {sender : Address} (hrx : s.rx.isReceiving = true)
    (hgood : bad = false) (hown : sender = s.own) (handOff : State → State) :
    s.receive bad sender handOff = s.discardOwn := by
  rw [State.receive, if_pos hrx, hgood, if_neg (by simp), if_pos hown]

/-- Settles O10: each row's discard is read off the badness of its frame, clause by clause. -/
theorem discardedFramesReachNoBlock : Obligations.DiscardedFramesReachNoBlock := by
  have receiving {t : Time} {rate : Rate} {s : State} (h : s.rx = .receiving rate) :
      (s.advance t).rx.isReceiving = true := by rw [State.advance_rx, h]; rfl
  refine ⟨fun t rate h levels s hrx => ⟨fun hlost => ?_, fun hlost => ?_, fun hbad => ?_, fun hlen htarget => ?_⟩,
    fun t rate check levels s hrx => ⟨fun h hbad => ?_, fun h p hbad => ?_, fun h hbad => ?_, fun h p hbad => ?_⟩,
    fun t rate check levels s hrx => ⟨fun h hgood hown => ?_, fun h p hgood hown => ?_, fun h hgood hown => ?_,
      fun h p hgood hown => ?_⟩⟩
  · exact if_pos ⟨receiving hrx, (lostLevel_iff_below levels).2 hlost⟩
  · exact if_neg fun hc => hlost ((lostLevel_iff_below levels).1 hc.2)
  · exact if_pos ⟨receiving hrx, (carryMalformed_iff h).2 hbad⟩
  · exact if_neg fun hc => by simp [carryMalformed_eq_false hlen htarget] at hc
  · refine congrArg _ (State.receive_bad (receiving hrx) ?_ _ _)
    rw [← lostBeforeEnd_iff] at hbad
    simpa [beaconBad, noStation_iff, or_assoc] using hbad
  · refine congrArg _ (State.receive_bad (receiving hrx) ?_ _ _)
    rw [← lostBeforeEnd_iff] at hbad
    simp only [carryBad, Bool.or_eq_true, decide_eq_true_eq, noStation_iff]
    tauto
  · refine congrArg _ (State.receive_bad (receiving hrx) ?_ _ _)
    rw [← lostBeforeEnd_iff] at hbad
    simpa [hushBad, noStation_iff, or_assoc] using hbad
  · refine congrArg _ (State.receive_bad (receiving hrx) ?_ _ _)
    rw [← lostBeforeEnd_iff] at hbad
    simpa [surveyBad, noStation_iff, or_assoc] using hbad
  · exact congrArg _ (State.receive_own (receiving hrx) hgood hown _)
  · exact congrArg _ (State.receive_own (receiving hrx) hgood hown _)
  · exact congrArg _ (State.receive_own (receiving hrx) hgood hown _)
  · exact congrArg _ (State.receive_own (receiving hrx) hgood hown _)

/-! ### Frames read from the air (R1, R10) -/

/-- A field that the first `n` bits hold is read from them (R1, R10). -/
theorem readField_take {w offset n : Nat} (bits : List Bool) (h : offset + w ≤ n) :
    readField w offset (bits.take n) = readField w offset bits := by
  unfold readField
  rw [List.drop_take, List.take_take, Nat.min_eq_left (by omega)]

/-- A field at the end of what is received (R6). -/
theorem readField_end {w : Nat} (front : List Bool) (x : BitVec w) :
    readField w front.length (front ++ msbBits x) = x := by
  have := readField_msbBits x []
  unfold readField at this ⊢
  rwa [List.drop_left, ← List.append_nil (msbBits x)]

/-- The kind stands with the first two bits (R1). -/
theorem frameKind_take {bits : List Bool} {n : Nat} (hn : 2 ≤ n) : frameKind (bits.take n) = frameKind bits := by
  obtain ⟨m, rfl⟩ := Nat.exists_eq_add_of_le' hn
  match bits with
  | [] => rfl
  | [_] => rfl
  | a :: b :: rest => cases a <;> cases b <;> rfl

/-- The payload length is not known earlier, or is the one that the whole frame states (R10). -/
theorem payloadBytes_take {k : FrameKind} {bits : List Bool} {m n : Nat} (h : k.payloadBytes bits = some m)
    (hn : n ≤ bits.length) : k.payloadBytes (bits.take n) = none ∨ k.payloadBytes (bits.take n) = some m := by
  cases k with
  | beacon => exact .inr h
  | hush => exact .inr h
  | carry =>
    simp only [FrameKind.payloadBytes, List.length_take, Nat.min_eq_left hn] at h ⊢
    by_cases h95 : 95 ≤ n
    · rw [if_pos (by omega)] at h
      exact .inr (by rw [if_pos h95, readField_take bits (by omega), h])
    · exact .inl (if_neg h95)
  | survey =>
    simp only [FrameKind.payloadBytes, List.length_take, Nat.min_eq_left hn] at h ⊢
    by_cases h38 : 38 ≤ n
    · rw [if_pos (by omega)] at h
      exact .inr (by rw [if_pos h38, readField_take bits (by omega), h])
    · exact .inl (if_neg h38)

/-- A whole frame, by its kind, its stated length and the number of its bits (R10). -/
theorem wholeFrame_eq_some {bits : List Bool} {k : FrameKind} : wholeFrame bits = some k ↔
    frameKind bits = some k ∧ ∃ m, k.payloadBytes bits = some m ∧ bits.length = frameBitTimes (k.headerBytes + m) := by
  simp only [wholeFrame, Option.bind_eq_some_iff, Option.ite_none_right_eq_some, Option.some.injEq]
  constructor
  · rintro ⟨k', hk, m, hm, hlen, rfl⟩
    exact ⟨hk, m, hm, hlen⟩
  · rintro ⟨hk, m, hm, hlen⟩
    exact ⟨k, hk, m, hm, hlen, rfl⟩

/-- No frame is whole before its last check bit (R10). -/
theorem wholeFrame_take {bits : List Bool} {k : FrameKind} {n : Nat} (h : wholeFrame bits = some k)
    (hn : n < bits.length) : wholeFrame (bits.take n) = none := by
  obtain ⟨hk, m, hm, hlen⟩ := wholeFrame_eq_some.1 h
  rw [Option.eq_none_iff_forall_ne_some]
  intro k' h'
  obtain ⟨hk', m', hm', hlen'⟩ := wholeFrame_eq_some.1 h'
  rw [List.length_take, Nat.min_eq_left hn.le] at hlen'
  have h2 : 2 ≤ n := by simp only [frameBitTimes] at hlen'; omega
  obtain rfl : k = k' := by rw [frameKind_take h2, hk] at hk'; exact Option.some.inj hk'
  rcases payloadBytes_take hm hn.le with hnone | hsome
  · simp [hnone] at hm'
  · obtain rfl : m = m' := by rw [hsome] at hm'; exact Option.some.inj hm'
    omega

/-- A CARRY header is read from its 96 bits (R4, R10). -/
theorem readCarry_take (bits : List Bool) : readCarry (bits.take 96) = readCarry bits := by
  simp [readCarry, readField_take]

theorem beaconBits_length (h : BeaconHeader) : (beaconBits h).length = 80 := by simp [beaconBits]

theorem carryBits_length (h : CarryHeader) : (carryBits h).length = 96 := by simp [carryBits]

theorem hushBits_length (h : HushHeader) : (hushBits h).length = 48 := by simp [hushBits]

theorem surveyBits_length (h : SurveyHeader) : (surveyBits h).length = 40 := by simp [surveyBits]

/-- The first two bits of a header give its kind (R1). -/
theorem frameKind_header (rest : List Bool) :
    (∀ h, frameKind (beaconBits h ++ rest) = some .beacon) ∧ (∀ h, frameKind (carryBits h ++ rest) = some .carry)
      ∧ (∀ h, frameKind (hushBits h ++ rest) = some .hush) ∧ ∀ h, frameKind (surveyBits h ++ rest) = some .survey := by
  have two : msbBits (0#2) = [false, false] ∧ msbBits (1#2) = [false, true] ∧ msbBits (2#2) = [true, false]
      ∧ msbBits (3#2) = [true, true] := by decide
  obtain ⟨h0, h1, h2, h3⟩ := two
  refine ⟨fun h => ?_, fun h => ?_, fun h => ?_, fun h => ?_⟩
  · simp only [beaconBits, h0, List.append_assoc]; rfl
  · simp only [carryBits, h1, List.append_assoc]; rfl
  · simp only [hushBits, h2, List.append_assoc]; rfl
  · simp only [surveyBits, h3, List.append_assoc]; rfl

/-- The payload of a frame, between its header and its check (R1). -/
theorem payload_frame {k : FrameKind} {header : List Bool} (hh : header.length = 8 * k.headerBytes) (p : List Byte)
    (check : BitVec 16) : k.payload (header ++ payloadBits p ++ msbBits check) = p := by
  have hbits : ((header ++ payloadBits p ++ msbBits check).drop (8 * k.headerBytes)).take
      ((header ++ payloadBits p ++ msbBits check).length - 8 * k.headerBytes - 16) = payloadBits p := by
    rw [← hh, List.append_assoc, List.drop_left]
    exact List.take_left' (by simp)
  rw [FrameKind.payload, hbits, bytesOfBits_payloadBits]

/-- The check of a frame, its last 16 bits (R6). -/
theorem check_frame (front : List Bool) (check : BitVec 16) :
    readField 16 ((front ++ msbBits check).length - 16) (front ++ msbBits check) = check := by
  rw [List.length_append, msbBits_length, Nat.add_sub_cancel, readField_end]

/-- The bits of a well-formed received row are a whole frame, and spell that row (R1, R3 to R6, R10). -/
theorem received_of_onAir {c : Instr} {bits : List Bool} {levels : List Int} (hw : c.wellFormed = true)
    (h : Claim.onAir c = some (bits, levels)) :
    ∃ k, wholeFrame bits = some k ∧ k.received c.time bits levels = c ∧ levels.length = bits.length := by
  cases c <;> simp only [Claim.onAir, Option.some.injEq, Prod.mk.injEq, reduceCtorEq] at h <;> obtain ⟨rfl, rfl⟩ := h
  case beaconReceived t header check levels =>
    refine ⟨.beacon, wholeFrame_eq_some.2 ⟨(frameKind_header _).1 header, 0, rfl, ?_⟩, ?_, ?_⟩
    · simp [beaconBits_length, frameBitTimes, FrameKind.headerBytes]
    · simp only [FrameKind.received, check_frame, readBeacon_beaconBits, Instr.time]
    · exact (of_decide_eq_true hw).trans (by simp [beaconBits_length, frameBitTimes])
  case carryReceived t header payload check levels =>
    simp only [Instr.wellFormed, Bool.and_eq_true, decide_eq_true_eq] at hw
    have hlen : (carryBits header ++ payloadBits payload ++ msbBits check).length
        = frameBitTimes (12 + payload.length) := by
      simp [carryBits_length, frameBitTimes]; omega
    have hstated : readField 7 88 (carryBits header ++ payloadBits payload ++ msbBits check) = header.length := by
      rw [List.append_assoc]
      exact congrArg CarryHeader.length (readCarry_carryBits header _)
    refine ⟨.carry, wholeFrame_eq_some.2 ⟨?_, payload.length, ?_, hlen⟩, ?_, hw.2.trans hlen.symm⟩
    · rw [List.append_assoc]
      exact (frameKind_header _).2.1 header
    · rw [FrameKind.payloadBytes, hlen, if_pos (by simp only [frameBitTimes]; omega), hstated, hw.1]
    · simp only [FrameKind.received, check_frame, Instr.time]
      rw [payload_frame (by simp [carryBits_length, FrameKind.headerBytes]), List.append_assoc, readCarry_carryBits]
  case hushReceived t header check levels =>
    refine ⟨.hush, wholeFrame_eq_some.2 ⟨(frameKind_header _).2.2.1 header, 0, rfl, ?_⟩, ?_, ?_⟩
    · simp [hushBits_length, frameBitTimes, FrameKind.headerBytes]
    · simp only [FrameKind.received, check_frame, readHush_hushBits, Instr.time]
    · exact (of_decide_eq_true hw).trans (by simp [hushBits_length, frameBitTimes])
  case surveyReceived t header fill check levels =>
    simp only [Instr.wellFormed, Bool.and_eq_true, decide_eq_true_eq] at hw
    have hlen : (surveyBits header ++ payloadBits fill ++ msbBits check).length = frameBitTimes (5 + fill.length) := by
      simp [surveyBits_length, frameBitTimes]; omega
    have hstated : readField 6 32 (surveyBits header ++ payloadBits fill ++ msbBits check) = header.fill := by
      rw [List.append_assoc]
      exact congrArg SurveyHeader.fill (readSurvey_surveyBits header _)
    refine ⟨.survey, wholeFrame_eq_some.2 ⟨?_, fill.length, ?_, hlen⟩, ?_, hw.2.trans hlen.symm⟩
    · rw [List.append_assoc]
      exact (frameKind_header _).2.2.2 header
    · rw [FrameKind.payloadBytes, hlen, if_pos (by simp only [frameBitTimes]; omega), hstated, hw.1]
    · simp only [FrameKind.received, check_frame, Instr.time]
      rw [payload_frame (by simp [surveyBits_length, FrameKind.headerBytes]), List.append_assoc, readSurvey_surveyBits]

/-- The first `n` bits of the air, and the readings of their bit times. -/
theorem air_take {bits : List Bool} {levels : List Int} (hlen : levels.length = bits.length) (n : Nat) :
    ((bits.zip levels).take n).map Prod.fst = bits.take n ∧ ((bits.zip levels).take n).map Prod.snd = levels.take n :=
  ⟨by rw [List.map_take, List.map_fst_zip hlen.ge], by rw [List.map_take, List.map_snd_zip hlen.le]⟩

/-! ### Preambles and start marks (R9) -/

/-- Without an attempt a busy judgement has no effect (R16). -/
theorem State.judgeBusy_idle {s : State} (h : s.tx = none) : s.judgeBusy = s := by
  rw [State.judgeBusy, h]

/-- A searching receiver that hears a whole unit follows it; without an attempt that is all (R9, R16). -/
theorem preambleDetected_unit {t : Time} {rate : Rate} {unit : Byte} {s : State} {r : Receiver}
    (hrx : s.rx = .searching) (hunit : afterUnit rate unit = some r) :
    ∃ u, exec (.preambleDetected t rate unit) s = .next u ∧ u.rx = r
      ∧ (s.tx = none → Claim.Quiet s → s.settle = s → u = { s with now := max s.now t, rx := r }) := by
  refine ⟨(State.judgeBusy { s.advance t with rx := r }).finish, ?_, ?_, fun htx hquiet hsettle => ?_⟩
  · simp only [exec, execPreambleDetected, State.advance_rx, hrx, hunit]
  · simp
  · have hidle := State.judgeBusy_idle (s := { s.advance t with rx := r }) htx
    exact (congrArg State.finish hidle).trans
      (State.finish_eq_self hquiet hsettle ⟨rfl, rfl, rfl, rfl, rfl, rfl, rfl, rfl⟩)

theorem startMarkOf_ne_trainingUnit (rate : Rate) : startMarkOf rate ≠ trainingUnit := by
  cases rate <;> decide

/-- The bits of a well-formed frame bring, one after another, its loss, the end of a CARRY header, the whole frame, or
nothing yet (R10, log 24). -/
theorem airEvent_onAir {c : Instr} {bits : List Bool} {levels : List Int} (hw : c.wellFormed = true)
    (hair : Claim.onAir c = some (bits, levels)) {n : Nat} (hn : n ≤ bits.length) :
    let event := airEvent c.time ((bits.zip levels).take n)
    let header := n = 96 ∧ ∃ t h p check, c = .carryReceived t h p check levels
    (n = bits.length → event = some c)
      ∧ (n < bits.length → Claim.Below levels n → event = some (.frameLost ⟨c.time, levels.take n⟩))
      ∧ (n < bits.length → ¬Claim.Below levels n → ¬header → event = none)
      ∧ (¬Claim.Below levels n → n = 96 → ∀ t h p check, c = .carryReceived t h p check levels →
          event = some (.carryHeaderComplete t h)) := by
  obtain ⟨k, hwhole, hreceived, hlen⟩ := received_of_onAir hw hair
  have hlost := lostLevel_take_iff (levels := levels) (n := n) (by omega)
  have hbits : (bits.take n).length = n := by rw [List.length_take, Nat.min_eq_left hn]
  obtain ⟨hfst, hsnd⟩ := air_take hlen n
  simp only [airEvent, hfst, hsnd]
  refine ⟨?_, fun hlt hbelow => ?_, fun hlt hbelow hheader => ?_, ?_⟩
  · rintro rfl
    rw [List.take_length, ← hlen, List.take_length, hwhole]
    exact congrArg some hreceived
  · rw [wholeFrame_take hwhole hlt]
    exact if_pos (hlost.2 hbelow)
  · rw [wholeFrame_take hwhole hlt]
    dsimp only
    rw [if_neg fun h => hbelow (hlost.1 h), if_neg]
    rintro ⟨hkind, h96⟩
    rw [hbits] at h96
    have hk : k = .carry := by
      have hframe := (wholeFrame_eq_some.1 hwhole).1
      rw [frameKind_take (by omega), hframe] at hkind
      exact Option.some.inj hkind
    subst hk
    exact hheader ⟨h96, c.time, _, _, _, hreceived.symm⟩
  · rintro hbelow rfl t h p check rfl
    obtain ⟨rfl, -⟩ : carryBits h ++ payloadBits p ++ msbBits check = bits ∧ levels = levels := by
      simpa [Claim.onAir] using hair
    have hlt : 96 < (carryBits h ++ payloadBits p ++ msbBits check).length := by
      simp [carryBits_length]
    have hkind : frameKind ((carryBits h ++ payloadBits p ++ msbBits check).take 96) = some .carry := by
      rw [frameKind_take (by omega), List.append_assoc]
      exact (frameKind_header _).2.1 h
    rw [wholeFrame_take hwhole hlt]
    dsimp only
    rw [if_neg fun h => hbelow (hlost.1 h), if_pos ⟨hkind, hbits⟩, readCarry_take, List.append_assoc,
      readCarry_carryBits, Instr.time]

/-- Every event but the end of a header ends the collection (R10). -/
theorem endsFrame_of_not_header {c : Instr} (h : ∀ t h, c ≠ .carryHeaderComplete t h) : endsFrame c = true := by
  cases c <;> first
    | rfl
    | exact absurd rfl (h _ _)

/-- Settles O9: the units by what they spell, the bits of a frame by the whole frame they belong to. -/
theorem preamblesAndStartMarks : Obligations.PreamblesAndStartMarks := by
  refine ⟨fun t rate s hrx => ⟨?_, ?_⟩, fun t rate unit s hrx => ⟨?_, fun htraining hmark => ?_⟩,
    fun c bits levels hw hair n hn => airEvent_onAir hw hair hn,
    fun start rate heard air b => ⟨fun s hrx => ?_, rfl, fun hnone => ?_, fun t h hsome => ⟨fun hbad => ?_,
      fun hlen htarget => ?_⟩, fun c hsome hother => ?_⟩⟩
  · exact preambleDetected_unit hrx (if_pos rfl)
  · exact preambleDetected_unit hrx (by rw [afterUnit, if_neg (startMarkOf_ne_trainingUnit rate), if_pos rfl])
  · simp only [exec, execStartMark, State.advance_rx, hrx]
    rfl
  · have hother : unit ≠ trainingUnit ∧ unit ≠ startMarkOf rate := ⟨htraining, hmark⟩
    simp only [exec, execPreambleEndNoFrame, State.advance_rx, hrx]
    exact if_pos hother
  · rw [State.hear, hrx]
  · rw [collect, hnone]
  · rw [collect, hsome]
    exact if_pos ((carryMalformed_iff h).2 hbad)
  · rw [collect, hsome]
    exact if_neg (by simp [endsFrame, carryMalformed_eq_false hlen htarget])
  · rw [collect, hsome]
    exact if_pos (endsFrame_of_not_header hother)

end Sys2Proof.Machine
end

section
namespace Sys2Proof.Machine

/-! ### Link quality, margins and the ranks formed (R11, R24, R25, R42, R44) -/

theorem linkQuality_eq (h : List Mark) : linkQuality h = min 255 (16 * (h.filter fun m => m = .heard).length) := by
  rw [linkQuality, List.count_eq_length_filter]
  rfl

/-- A link cost lies in 8..31 (R42). -/
theorem linkCost_range (lq : Nat) : 8 ≤ linkCost lq ∧ linkCost lq ≤ 31 := by
  unfold linkCost
  omega

theorem smoothed_le {old new : Nat} (ho : old ≤ 63) (hn : new ≤ 63) : smoothed old new ≤ 63 := by
  unfold smoothed
  omega

/-- The mean in whole dB lies between two numbers where the sum of the readings lies between their multiples (R11). -/
theorem meanLevel_bounds {levels : List Int} (hne : levels ≠ []) (k : Int) :
    (1000 * k * levels.length ≤ levels.sum ↔ k ≤ meanLevel levels / 1000)
      ∧ (levels.sum < 1000 * k * levels.length ↔ meanLevel levels / 1000 < k) := by
  have hpos : (0 : Int) < levels.length := by exact_mod_cast List.length_pos_iff.2 hne
  have hle : 1000 * k * levels.length ≤ levels.sum ↔ k ≤ meanLevel levels / 1000 := by
    rw [meanLevel, Int.le_ediv_iff_mul_le (by omega), Int.le_ediv_iff_mul_le hpos, mul_comm k]
  exact ⟨hle, by rw [← not_le, hle, not_le]⟩

/-- A margin by the sum of its readings, clamped to 0..63 (R11). -/
theorem marginOf_cases {levels : List Int} (hne : levels ≠ []) (k : Nat) :
    (levels.sum < 1000 * levels.length → marginOf levels = 0)
      ∧ (k ≤ 62 → 1000 * k * levels.length ≤ levels.sum → levels.sum < 1000 * (k + 1) * levels.length →
          marginOf levels = k)
      ∧ (63000 * levels.length ≤ levels.sum → marginOf levels = 63) := by
  have hbounds := meanLevel_bounds hne
  refine ⟨fun h => ?_, fun hk hlo hhi => ?_, fun h => ?_⟩
  · have := (hbounds 1).2.1 (by omega)
    unfold marginOf
    omega
  · have := (hbounds k).1.1 hlo
    have := (hbounds (k + 1)).2.1 hhi
    unfold marginOf
    omega
  · have := (hbounds 63).1.1 (by omega)
    unfold marginOf
    omega

/-- Usable toward an anchor (R36). -/
theorem usable_iff (cfg : Record) (a : Fin 4) (n : Neighbour) : usable cfg a n = true ↔
    (n.standing = .up ∨ n.standing = .silent) ∧ cfg.marginMin ≤ n.marginAvg ∧ n.ranks[a] ≠ 4095 := by
  unfold usable
  cases n.standing <;> simp

/-- The sums a rank is formed from are those of the usable neighbours (R44). -/
theorem State.mem_rankSums (s : State) (a : Fin 4) (x : Nat) : x ∈ s.rankSums a ↔
    ∃ (i : Fin 32) (n : Neighbour), s.table[i] = some n ∧ usable s.cfg a n = true ∧ rankThrough a n = x := by
  simp only [State.rankSums, List.mem_filterMap, Vector.mem_toList_iff, Vector.mem_iff_getElem, id]
  constructor
  · rintro ⟨n, ⟨o, ⟨i, hi, rfl⟩, hn⟩, hx⟩
    split at hx
    · next hu => exact ⟨⟨i, hi⟩, n, hn, hu, Option.some.inj hx⟩
    · cases hx
  · rintro ⟨i, n, hn, hu, rfl⟩
    exact ⟨n, ⟨_, ⟨i.1, i.2, rfl⟩, hn⟩, if_pos hu⟩

/-- A least sum is at most each of them, and is one of them or the start. -/
theorem foldl_min_spec (l : List Nat) : ∀ m, (∀ x ∈ l, l.foldl min m ≤ x) ∧ l.foldl min m ≤ m
    ∧ (l.foldl min m = m ∨ l.foldl min m ∈ l) := by
  induction l with
  | nil => simp
  | cons y l ih =>
    intro m
    obtain ⟨hall, hle, hmem⟩ := ih (min m y)
    rw [List.foldl_cons]
    refine ⟨fun x hx => ?_, by omega, ?_⟩
    · rcases List.mem_cons.1 hx with rfl | hx
      · omega
      · exact hall x hx
    · rcases hmem with hmem | hmem
      · rcases Nat.le_total m y with h | h
        · exact .inl (by omega)
        · exact .inr (List.mem_cons.2 (.inl (by omega)))
      · exact .inr (List.mem_cons_of_mem _ hmem)

theorem State.formedRanks_get (s : State) (a : Fin 4) : s.formedRanks[a] = s.formedRank a := by
  fin_cases a <;> rfl

theorem State.ownIndex_iff (s : State) (a : Fin 4) :
    s.ownIndex = some a ↔ s.cfg.role = .anchor ∧ s.cfg.anchorIndex = a := by
  unfold State.ownIndex
  cases s.cfg.role <;> simp

/-- A rank formed from the table, as a number (R44). -/
theorem State.formedRank_toNat {s : State} {a : Fin 4} (h : s.ownIndex ≠ some a) :
    (s.formedRank a).toNat = (s.rankSums a).foldl min 4095 := by
  have := (foldl_min_spec (s.rankSums a) 4095).2.1
  rw [State.formedRank, if_neg h, BitVec.toNat_ofNat, Nat.mod_eq_of_lt (by omega)]

/-- Settles O15: the margin from the bounds of its mean, the rank formed from the least of its sums. -/
theorem linkQualityCostAndMargin : Obligations.LinkQualityCostAndMargin := by
  refine ⟨linkQuality_eq, fun h => ⟨rfl, linkCost_range _⟩, fun old new ho hn => ⟨rfl, smoothed_le ho hn⟩,
    fun levels k hne => marginOf_cases hne k, fun s a => ⟨fun hown => ?_, fun hother => ⟨fun i n hn hu => ?_, ?_⟩⟩⟩
  · rw [State.formedRanks_get, State.formedRank, if_pos ((s.ownIndex_iff a).2 hown)]
  · rw [State.formedRanks_get, State.formedRank_toNat fun h => hother ((s.ownIndex_iff a).1 h)]
    exact (foldl_min_spec _ 4095).1 _ ((s.mem_rankSums a _).2 ⟨i, n, hn, (usable_iff ..).2 hu, rfl⟩)
  · have hrank := State.formedRank_toNat fun h => hother ((s.ownIndex_iff a).1 h)
    rw [State.formedRanks_get]
    rcases (foldl_min_spec (s.rankSums a) 4095).2.2 with hnone | hsum
    · exact .inl (BitVec.eq_of_toNat_eq (hrank.trans hnone))
    · obtain ⟨i, n, hn, hu, hx⟩ := (s.mem_rankSums a _).1 hsum
      exact .inr ⟨i, n, hn, (usable_iff ..).1 hu, hrank.trans hx.symm⟩

end Sys2Proof.Machine
end

section
namespace Sys2Proof.Machine

/-! ### The phases of an attempt (R16, R17) -/

section Phases

variable {t : Time} {s : State} {a : Attempt}

/-- The phase of an attempt is over at the time of its end (R17). -/
theorem phaseOver_at_end (ha : s.tx = some a) (hends : a.ends ≤ max s.now t) :
    (s.advance t).phaseOver a.phase = some a :=
  State.phaseOver_eq_some.2 ⟨ha, rfl, hends⟩

/-- CCA_MS passed clear (R16). -/
theorem exec_ccaClear_over (ha : s.tx = some a) (hends : a.ends ≤ max s.now t) (hp : a.phase = .assessing) :
    exec (.ccaClear t) s = .next ((s.advance t).clearChannel a) := by
  simp only [exec, execCcaClear, ← hp, phaseOver_at_end ha hends]

theorem exec_settlingEnd_over (ha : s.tx = some a) (hends : a.ends ≤ max s.now t) (hp : a.phase = .settling) :
    exec (.settlingEnd t) s = .next ((s.advance t).beginPreamble a) := by
  simp only [exec, execSettlingEnd, ← hp, phaseOver_at_end ha hends]

theorem exec_preambleSent_over (ha : s.tx = some a) (hends : a.ends ≤ max s.now t) (hp : a.phase = .preamble) :
    exec (.preambleSent t) s = .next ((s.advance t).beginBody a) := by
  simp only [exec, execPreambleSent, ← hp, phaseOver_at_end ha hends]

theorem exec_bodyEnd_over (ha : s.tx = some a) (hends : a.ends ≤ max s.now t) (hp : a.phase = .body) :
    exec (.bodyEnd t) s = .next ((s.advance t).endBody a).finish := by
  simp only [exec, execBodyEnd, ← hp, phaseOver_at_end ha hends]

/-- "clear" says nothing to a beacon, a HUSH or a survey frame (R18). -/
theorem ownerClear_other (h : ∀ i, a.owner ≠ .hold i) : s.ownerClear a.owner = s := by
  cases ho : a.owner with
  | hold i => exact absurd ho (h i)
  | beacon => rfl
  | hush => rfl
  | survey => rfl

/-- A hold entry told "clear" is SENDING with its transmit rank fixed, the others as before (R94). -/
theorem ownerClear_hold {i : Fin 16} {e : Hold} (he : s.hold[i] = some e) :
    s.ownerClear (.hold i) = { s with hold := setAt s.hold i (some { e with
      state := .sending, attempts := e.attempts + 1, transmitRank := s.clearRank e }) } := by
  simp only [State.ownerClear, he]
  rfl

end Phases

/-! ### Fields and bytes of a frame (R1, R3 to R6) -/

/-- A field at the head of the bits (R1). -/
theorem field_head {w : Nat} (x : BitVec w) (rest : List Bool) : Claim.Field (msbBits x ++ rest) 0 x := by
  intro k hk
  rw [Nat.zero_add, List.getElem?_append_left (by simpa using hk), msbBits_bit x hk]

/-- The last field of a header (R1). -/
theorem field_last {w : Nat} (x : BitVec w) : Claim.Field (msbBits x) 0 x := by
  intro k hk
  rw [Nat.zero_add, msbBits_bit x hk]

/-- A field further on stands past the field before it (R1). -/
theorem field_past {n w : Nat} {y : BitVec n} {rest : List Bool} {offset : Nat} {x : BitVec w} (hn : n ≤ offset)
    (h : Claim.Field rest (offset - n) x) : Claim.Field (msbBits y ++ rest) offset x := by
  intro k hk
  rw [List.getElem?_append_right (by simp; omega), msbBits_length, ← h k hk]
  congr 1
  omega

theorem beaconBits_fields (h : BeaconHeader) : let b := beaconBits h
    b.length = 80 ∧ Claim.Field b 0 0#2 ∧ Claim.Field b 2 h.serial ∧ Claim.Field b 10 h.period
      ∧ Claim.Field b 16 h.sender ∧ Claim.Field b 32 h.rank0 ∧ Claim.Field b 44 h.rank1 ∧ Claim.Field b 56 h.rank2
      ∧ Claim.Field b 68 h.rank3 := by
  refine ⟨beaconBits_length h, ?_, ?_, ?_, ?_, ?_, ?_, ?_, ?last⟩ <;> simp only [beaconBits, List.append_assoc] <;>
    repeat refine field_past (by omega) ?_
  case last => exact field_last _
  all_goals exact field_head _ _

theorem carryBits_fields (h : CarryHeader) : let b := carryBits h
    b.length = 96 ∧ Claim.Field b 0 1#2 ∧ Claim.Field b 2 (disciplineBit h.discipline) ∧ Claim.Field b 3 h.target
      ∧ Claim.Field b 11 h.hops ∧ Claim.Field b 16 h.origin ∧ Claim.Field b 32 h.serial ∧ Claim.Field b 44 h.sender
      ∧ Claim.Field b 60 h.senderRank ∧ Claim.Field b 72 h.dest ∧ Claim.Field b 88 h.length
      ∧ Claim.Field b 95 h.pad := by
  refine ⟨carryBits_length h, ?_, ?_, ?_, ?_, ?_, ?_, ?_, ?_, ?_, ?_, ?last⟩ <;>
    simp only [carryBits, List.append_assoc] <;> repeat refine field_past (by omega) ?_
  case last => exact field_last _
  all_goals exact field_head _ _

theorem hushBits_fields (h : HushHeader) : let b := hushBits h
    b.length = 48 ∧ Claim.Field b 0 2#2 ∧ Claim.Field b 2 h.anchor ∧ Claim.Field b 4 h.origin
      ∧ Claim.Field b 20 h.serial ∧ Claim.Field b 32 h.sender := by
  refine ⟨hushBits_length h, ?_, ?_, ?_, ?_, ?last⟩ <;> simp only [hushBits, List.append_assoc] <;>
    repeat refine field_past (by omega) ?_
  case last => exact field_last _
  all_goals exact field_head _ _

theorem surveyBits_fields (h : SurveyHeader) : let b := surveyBits h
    b.length = 40 ∧ Claim.Field b 0 3#2 ∧ Claim.Field b 2 h.sender ∧ Claim.Field b 18 h.sequence
      ∧ Claim.Field b 32 h.fill ∧ Claim.Field b 38 h.pad := by
  refine ⟨surveyBits_length h, ?_, ?_, ?_, ?_, ?last⟩ <;> simp only [surveyBits, List.append_assoc] <;>
    repeat refine field_past (by omega) ?_
  case last => exact field_last _
  all_goals exact field_head _ _

/-- Each byte of a payload stands in its bits, most-significant bit first (R1). -/
theorem payloadBits_field (p : List Byte) : ∀ (j : Nat) (x : Byte), p[j]? = some x →
    Claim.Field (payloadBits p) (8 * j) x := by
  induction p with
  | nil => simp
  | cons b p ih =>
    intro j x hx
    rw [show payloadBits (b :: p) = msbBits b ++ payloadBits p from rfl]
    cases j with
    | zero =>
      obtain rfl : b = x := by simpa using hx
      exact field_head b _
    | succ j =>
      refine field_past (by omega) ?_
      rw [show 8 * (j + 1) - 8 = 8 * j by omega]
      exact ih j x (by simpa using hx)

/-- The bytes of a string of bits further on (R1). -/
theorem bytesOfBits_drop (bits : List Bool) (m : Nat) : (bytesOfBits bits).drop m = bytesOfBits (bits.drop (8 * m)) := by
  refine List.ext_getElem? fun i => ?_
  simp only [bytesOfBits, List.getElem?_drop, List.getElem?_map, List.drop_drop, List.length_drop]
  by_cases hi : m + i < bits.length / 8
  · rw [List.getElem?_range hi, List.getElem?_range (by omega)]
    simp only [Option.map_some, Nat.mul_add]
  · rw [List.getElem?_eq_none (by simp; omega), List.getElem?_eq_none (by simp; omega)]
    rfl

/-- The bits of a check are those of its two bytes (R1, R6). -/
theorem msbBits_check (c : BitVec 16) : msbBits c = msbBits (c.extractLsb' 8 8) ++ msbBits (c.setWidth 8) := by
  simp [msbBits, List.range_succ, BitVec.getMsbD]

/-- The two bytes of a check (R6). -/
theorem bytesOfBits_check (c : BitVec 16) : bytesOfBits (msbBits c) = [c.extractLsb' 8 8, c.setWidth 8] := by
  rw [msbBits_check, bytesOfBits_cons, ← List.append_nil (msbBits (c.setWidth 8)), bytesOfBits_cons]
  rfl

/-- A frame's bytes are header, payload and check (R1, R6). -/
theorem frameBytes_spec (header : List Bool) (p : List Byte) (hh : header.length % 8 = 0) :
    let bits := header ++ payloadBits p
    (frameBytes header p).length = header.length / 8 + p.length + 2
      ∧ (∀ k, k < bits.length → bits[k]? = some (((frameBytes header p).getD (k / 8) 0).getMsbD (k % 8)))
      ∧ (frameBytes header p).drop (header.length / 8 + p.length)
          = [(frameCheck bits).extractLsb' 8 8, (frameCheck bits).setWidth 8] := by
  dsimp only
  have hlen : (header ++ payloadBits p).length = 8 * (header.length / 8 + p.length) := by
    rw [List.length_append, payloadBits_length]; omega
  have hall : (header ++ payloadBits p ++ msbBits (frameCheck (header ++ payloadBits p))).length / 8
      = header.length / 8 + p.length + 2 := by
    rw [List.length_append, hlen, msbBits_length]; omega
  refine ⟨?_, fun k hk => ?_, ?_⟩
  · rw [frameBytes, bytesOfBits_length, hall]
  · have hbit := bytesOfBits_bit (j := k / 8) (k := k % 8)
      (bits := header ++ payloadBits p ++ msbBits (frameCheck (header ++ payloadBits p))) (by omega) (by omega)
    rwa [show 8 * (k / 8) + k % 8 = k by omega, List.getElem?_append_left hk] at hbit
  · rw [frameBytes, bytesOfBits_drop, ← hlen, List.drop_left, bytesOfBits_check]

/-- The check register takes a bit through x^16 + x^12 + x^5 + 1 (R6). -/
theorem crcStep_bit (c : BitVec 16) (x : Bool) {k : Nat} (hk : k < 16) :
    (crcStep c x).getLsbD k =
      if k = 0 then c.getLsbD 15 ^^ x
      else if k = 5 ∨ k = 12 then (c.getLsbD (k - 1) ^^ (c.getLsbD 15 ^^ x)) else c.getLsbD (k - 1) := by
  have hmask : (0x1021#16).getLsbD k = decide (k = 0 ∨ k = 5 ∨ k = 12) := by
    interval_cases k <;> rfl
  have hmsb : (c.msb != x) = (c.getLsbD 15 ^^ x) := by
    rw [BitVec.msb_eq_getLsbD_last]
  rw [crcStep, hmsb]
  cases hback : (c.getLsbD 15 ^^ x)
  · rw [if_neg (by simp), BitVec.getLsbD_shiftLeft]
    rcases Nat.eq_zero_or_pos k with rfl | hpos
    · simp
    · simp only [hk, Nat.pos_iff_ne_zero.1 hpos, Bool.xor_false]
      simp [Nat.not_lt.2 hpos]
  · rw [if_pos rfl, BitVec.getLsbD_xor, hmask, BitVec.getLsbD_shiftLeft]
    rcases Nat.eq_zero_or_pos k with rfl | hpos
    · simp
    · by_cases h : k = 5 ∨ k = 12 <;> simp [hk, Nat.pos_iff_ne_zero.1 hpos, Nat.not_lt.2 hpos, h]

/-! ### The frame sent (R17, R53, R95, R112, R174) -/

/-- The frame of each owner is taken from its record as it stands, header, payload and check (R17). -/
theorem ownerFrame_spec (s : State) (o : Owner) :
    (o = .beacon → s.ownerFrame o = frameBytes (beaconBits ⟨s.beaconSerial, BitVec.ofNat 6 s.cfg.beaconPeriod,
        s.own, s.ranks[0], s.ranks[1], s.ranks[2], s.ranks[3]⟩) [] ∧ (s.ownerFrame o).length = 12)
      ∧ (∀ k rest, o = .hush → s.hushQueue = k :: rest → s.ownerFrame o = frameBytes (hushBits
          ⟨BitVec.ofNat 2 s.cfg.anchorIndex.1, k.origin, k.serial, s.own⟩) [] ∧ (s.ownerFrame o).length = 8)
      ∧ (o = .survey → s.ownerFrame o = frameBytes (surveyBits ⟨s.own, BitVec.ofNat 14 s.burstRec.next,
          BitVec.ofNat 6 s.burstRec.fill, 0⟩) (List.replicate s.burstRec.fill 0)
          ∧ (s.ownerFrame o).length = 7 + s.burstRec.fill)
      ∧ ∀ i e, o = .hold i → s.hold[i] = some e → s.ownerFrame o = frameBytes (carryBits
          ⟨e.goal.discipline, e.goal.target, e.hops, e.ident.origin, e.ident.serial, s.own,
            e.transmitRank.getD 4095, e.dest, BitVec.ofNat 7 e.length, 0⟩) (chainBytes s.mem e.chain e.length)
          ∧ (s.ownerFrame o).length = 14 + e.length := by
  refine ⟨?_, ?_, ?_, ?_⟩
  · rintro rfl
    refine ⟨rfl, ?_⟩
    rw [State.ownerFrame, (frameBytes_spec _ _ (by rw [beaconBits_length])).1, beaconBits_length]
    rfl
  · rintro k rest rfl hq
    have hframe : s.ownerFrame .hush = frameBytes (hushBits (s.hushFrame k)) [] := by rw [State.ownerFrame, hq]
    refine ⟨hframe, ?_⟩
    rw [hframe, (frameBytes_spec _ _ (by rw [hushBits_length])).1, hushBits_length]
    rfl
  · rintro rfl
    refine ⟨rfl, ?_⟩
    rw [State.ownerFrame, (frameBytes_spec _ _ (by rw [surveyBits_length])).1, surveyBits_length, List.length_replicate]
    omega
  · rintro i e rfl he
    have hframe : s.ownerFrame (.hold i)
        = frameBytes (carryBits (s.carryFrame e)) (chainBytes s.mem e.chain e.length) := by rw [State.ownerFrame, he]
    refine ⟨hframe, ?_⟩
    rw [hframe, (frameBytes_spec _ _ (by rw [carryBits_length])).1, carryBits_length, chainBytes, List.length_map,
      List.length_range]
    omega

/-- Settles O29: the phases by their end times, a frame by its owner's record, headers and bytes by their fields. -/
theorem clearChannelsCarryTheFrame : Obligations.ClearChannelsCarryTheFrame := by
  refine ⟨fun t s a ha hends => ⟨fun hp hother => ?_, fun hp i e howner he => ?_, fun hp => ?_, fun hp => ?_⟩,
    beaconBits_fields, carryBits_fields, hushBits_fields, surveyBits_fields,
    fun p => ⟨payloadBits_length p, payloadBits_field p⟩, frameBytes_spec, rfl, fun bits x k hk => ?_⟩
  · rw [exec_ccaClear_over ha hends hp, State.clearChannel, ownerClear_other hother]
    rfl
  · refine ⟨_, exec_ccaClear_over ha hends hp, ?_⟩
    rw [State.clearChannel, howner, ownerClear_hold (s := s.advance t) he]
    refine ⟨rfl, fun j hj => setAt_other _ _ (Ne.symm hj), (setAt_same ..).trans ?_⟩
    unfold State.clearRank
    cases e.goal <;> rfl
  · exact exec_settlingEnd_over ha hends hp
  · exact ⟨_, exec_preambleSent_over ha hends hp, rfl, rfl, ownerFrame_spec (s.advance t) a.owner⟩
  · have := crcStep_bit (frameCheck bits) x hk
    rwa [← frameCheck_append] at this

end Sys2Proof.Machine
end

section
namespace Sys2Proof.Machine

/-! ### Requests that come at the end of a timer (R51, R52, R54, R112, R175) -/

theorem idle_of_free {s : State} (h : Claim.FreeToGrant s) : s.rx.busy = false := by
  obtain ⟨-, -, hrx, -⟩ := h
  rw [hrx]
  rfl

/-- An event that leaves in `v` the one request of `o`, and is nothing to the event unit: a free transmitter grants it, a
receiver with a frame defers the grant, to `w`, and any other leaves it standing (R15, R16). -/
theorem finish_request {s v w : State} {o : Owner} (hs : s.settle = s) (hv : SameSources s v) (hw : SameSources s w)
    (hsame : v.station = s.station ∧ v.tx = s.tx ∧ v.rx = s.rx) (ho : s.nextRequest = none → v.nextRequest = some o)
    (hdeferred : v.rx.busy = true → v.tx = none → v.grant o = w) (hlast : s.nextRequest = none → w.nextRequest = none) :
    (Claim.FreeToGrant s → v.finish = v.granted o)
      ∧ (s.station = .running → s.tx = none → s.nextRequest = none → Claim.Engaged s → v.finish = w)
      ∧ (s.station ≠ .running ∨ s.tx.isSome → v.finish = v) := by
  obtain ⟨hstation, htx, hrx⟩ := hsame
  refine ⟨fun hfree => ?_, fun hrun hidle hnone hengaged => ?_, fun hother => ?_⟩
  · have hbusy := idle_of_free hfree
    obtain ⟨hrun, hidle, -, hnone⟩ := hfree
    rw [State.finish_granted (by rw [hrx, hbusy]) (by rw [hstation, hrun]) (by rw [htx, hidle]) (ho hnone),
      State.settle_of_sources hs (hv.granted o)]
  · have hgrant := hdeferred (by rw [hrx, busy_of_engaged hengaged]) (by rw [htx, hidle])
    rw [State.finish_deferred (by rw [hstation, hrun]) (by rw [htx, hidle]) (ho hnone) (by rw [hgrant, hlast hnone]),
      hgrant, State.settle_of_sources hs hw]
  · refine State.finish_eq_self (fun hrun hidle => ?_) hs hv
    rw [hstation] at hrun
    rw [htx] at hidle
    simp [hrun, hidle] at hother

/-- The rows that leave a beacon due, by what they find (R51, R52, R54). -/
theorem exec_beacon_due {t : Time} {s : State} {c : Instr} {r : Millis}
    (h : let m := max s.now t / 96
      (∃ d, c = .beaconDueExpiry t ∧ s.beacon = .waiting d ∧ d ≤ m ∧ r = m + s.cfg.beaconPeriod * 1000)
      ∨ (∃ d, c = .beaconBackoffExpiry t ∧ s.beacon = .backoff d r ∧ d ≤ m)
      ∨ (∃ q d, c = .beaconReplacementExpiry t ∧ (s.beacon = .due q ∨ s.beacon = .backoff d q) ∧ q ≤ m
          ∧ r = m + s.cfg.beaconPeriod * 1000)) :
    exec c s = .next (State.finish { s with now := max s.now t, beacon := .due r }) := by
  rcases h with ⟨d, rfl, hb, hd, rfl⟩ | ⟨d, rfl, hb, hd⟩ | ⟨q, d, rfl, hb | hb, hd, rfl⟩
  · simp only [exec, execBeaconDueExpiry, State.advance_beacon, hb]
    exact if_pos hd
  · simp only [exec, execBeaconBackoffExpiry, State.advance_beacon, hb]
    exact if_pos hd
  · simp only [exec, execBeaconReplacementExpiry, State.advance_beacon, hb]
    exact if_pos hd
  · simp only [exec, execBeaconReplacementExpiry, State.advance_beacon, hb]
    exact if_pos hd

/-- The end of an event that leaves the beacon due (R15, R16, R51). -/
theorem finish_beacon_due {s : State} (hs : s.settle = s) (n : Time) (r : Millis) :
    let v : State := { s with now := n, beacon := .due r }
    (Claim.FreeToGrant s → v.finish = v.granted .beacon)
      ∧ (s.station = .running → s.tx = none → s.nextRequest = none → Claim.Engaged s → v.finish = { s with
          now := n, jitter := jitterStep s.jitter, beacon := .backoff (Claim.backoff s (n / 96)) r })
      ∧ (s.station ≠ .running ∨ s.tx.isSome → v.finish = v) :=
  finish_request hs ⟨rfl, rfl, rfl, rfl, rfl, rfl, rfl, rfl⟩ ⟨rfl, rfl, rfl, rfl, rfl, rfl, rfl, rfl⟩ ⟨rfl, rfl, rfl⟩
    (fun _ => State.nextRequest_beacon rfl) (fun hrx htx => State.grant_beacon_of_busy hrx htx rfl)
    fun hnone => State.nextRequest_none_of_fewer hnone (fun _ h => by cases h) id (fun _ _ h _ => h) id

/-- Settles O32: the request by the row that leaves it, its grant by what transmitter and receiver do. -/
theorem dueBeaconsRequest : Obligations.DueBeaconsRequest := by
  refine ⟨fun t s c r hquiet hc => ⟨_, exec_beacon_due hc, by simp, fun hfree hs => ?_, fun hrun htx hengaged hs => ?_,
    fun hother hs => ?_⟩, fun t s r hb hr => ?_⟩
  · rw [(finish_beacon_due hs _ r).1 hfree]
    exact ⟨rfl, rfl, rfl⟩
  · exact (finish_beacon_due hs _ r).2.1 hrun htx (hquiet hrun htx) hengaged
  · exact (finish_beacon_due hs _ r).2.2 hother
  · simp only [exec, execBeaconReplacementExpiry, State.advance_beacon, hb]
    exact if_pos hr

/-- The end of an event that leaves the HUSH head standing (R15, R16, R112). -/
theorem finish_hush_standing {s : State} (hs : s.settle = s) (hq : s.hushQueue ≠ []) (n : Time) :
    let v : State := { s with now := n, hushHead := .standing }
    (Claim.FreeToGrant s → v.finish = v.granted .hush)
      ∧ (s.station = .running → s.tx = none → s.nextRequest = none → Claim.Engaged s → v.finish = { s with
          now := n, jitter := jitterStep s.jitter, hushHead := .backoff (Claim.backoff s (n / 96)) })
      ∧ (s.station ≠ .running ∨ s.tx.isSome → v.finish = v) :=
  finish_request hs ⟨rfl, rfl, rfl, rfl, rfl, rfl, rfl, rfl⟩ ⟨rfl, rfl, rfl, rfl, rfl, rfl, rfl, rfl⟩ ⟨rfl, rfl, rfl⟩
    (fun hnone => State.nextRequest_hush (s.nextRequest_eq_none_iff.1 hnone).1 hq rfl)
    (fun hrx htx => State.grant_hush_of_busy hrx htx)
    fun hnone => State.nextRequest_none_of_fewer hnone (fun _ h => h) (fun h => by cases h.2) (fun _ _ h _ => h) id

/-- The end of an event that leaves a survey frame due (R15, R16, R175); `record` is the burst's. -/
theorem finish_survey_due {s : State} (hs : s.settle = s) (n : Time) (record : BurstRecord) :
    let v : State := { s with now := n, burst := .due, burstRec := record }
    (Claim.FreeToGrant s → v.finish = v.granted .survey)
      ∧ (s.station = .running → s.tx = none → s.nextRequest = none → Claim.Engaged s → v.finish = { s with
          now := n, jitter := jitterStep s.jitter, burst := .backoff (Claim.backoff s (n / 96)), burstRec := record })
      ∧ (s.station ≠ .running ∨ s.tx.isSome → v.finish = v) :=
  finish_request hs ⟨rfl, rfl, rfl, rfl, rfl, rfl, rfl, rfl⟩ ⟨rfl, rfl, rfl, rfl, rfl, rfl, rfl, rfl⟩ ⟨rfl, rfl, rfl⟩
    (fun hnone => by
      obtain ⟨hbeacon, hhush, hready, -⟩ := s.nextRequest_eq_none_iff.1 hnone
      exact State.nextRequest_survey hbeacon hhush hready rfl)
    (fun hrx htx => State.grant_survey_of_busy hrx htx)
    fun hnone => State.nextRequest_none_of_fewer hnone (fun _ h => h) id (fun _ _ h _ => h) (fun h => by cases h)

/-- The rows that leave a survey frame due, by what they find (R175). -/
theorem exec_survey_due {t : Time} {s : State} {c : Instr} {d : Millis} (hd : d ≤ max s.now t / 96)
    (h : c = .surveyIntervalExpiry t ∧ s.burst = .waiting d ∨ c = .surveyBackoffExpiry t ∧ s.burst = .backoff d) :
    exec c s = .next (State.finish { s with now := max s.now t, burst := .due }) := by
  rcases h with ⟨rfl, hb⟩ | ⟨rfl, hb⟩
  · simp only [exec, execSurveyIntervalExpiry, State.advance_burst, hb]
    exact if_pos hd
  · simp only [exec, execSurveyBackoffExpiry, State.advance_burst, hb]
    exact if_pos hd

/-- Settles O35: the request by the row that leaves it, its grant by what transmitter and receiver do. -/
theorem hushAndSurveyRequestAgain : Obligations.HushAndSurveyRequestAgain := by
  refine fun t s d hd hquiet hs => ⟨fun hhead hq => ?_, fun c hc => ?_⟩
  · have hexec : exec (.hushBackoffExpiry t) s
        = .next (State.finish { s with now := max s.now t, hushHead := .standing }) := by
      simp only [exec, execHushBackoffExpiry, State.advance_hushHead, hhead]
      exact if_pos hd
    obtain ⟨free, engaged, other⟩ := finish_hush_standing hs hq (max s.now t)
    refine ⟨_, hexec, by simp, fun hfree => ?_, fun hrun htx => engaged hrun htx (hquiet hrun htx), other⟩
    rw [free hfree]
    exact ⟨rfl, rfl, rfl⟩
  · obtain ⟨free, engaged, other⟩ := finish_survey_due hs (max s.now t) s.burstRec
    refine ⟨_, exec_survey_due hd hc, by simp, fun hfree => ?_, fun hrun htx => engaged hrun htx (hquiet hrun htx), other⟩
    rw [free hfree]
    exact ⟨rfl, rfl, rfl⟩

end Sys2Proof.Machine
end

section
namespace Sys2Proof.Machine

/-! ### A hold entry that goes (R61, R75, R157) -/

theorem setAt_setAt {α : Type} {n : Nat} (v : Vector α n) (i : Fin n) (x y : α) :
    setAt (setAt v i x) i y = setAt v i y := by
  simp [setAt]

@[simp] theorem Seen.settleAs_ident (status : SeenStatus) (x : Seen) : (x.settleAs status).ident = x.ident := by
  unfold Seen.settleAs
  split <;> rfl

/-- With no identity twice, the entry found for an identity is the one that has it (R60). -/
theorem State.findSeen_of_mem {s : State} {x : Seen} (hnodup : (s.seen.map Seen.ident).Nodup) (hx : x ∈ s.seen) :
    s.findSeen x.ident = some x := by
  cases hfound : s.findSeen x.ident with
  | none => simpa using List.find?_eq_none.1 hfound x hx
  | some y =>
    obtain ⟨hy, hident⟩ := State.findSeen_some hfound
    rw [List.inj_on_of_nodup_map hnodup hy hx hident]

/-- The entry found after all entries of an identity have changed otherwise than in their identity. -/
theorem find?_updated (l : List Seen) (k : Ident) {f : Seen → Seen} (hf : ∀ x, (f x).ident = x.ident) :
    (l.map fun x => if x.ident = k then f x else x).find? (fun x => x.ident = k)
      = (l.find? fun x => x.ident = k).map f := by
  rw [List.find?_map]
  have hsame : ((fun x : Seen => decide (x.ident = k)) ∘ fun x => if x.ident = k then f x else x)
      = fun x => decide (x.ident = k) := by
    funext x
    by_cases hx : x.ident = k <;> simp [hx, hf]
  rw [hsame]
  cases hfound : l.find? fun x => decide (x.ident = k) with
  | none => rfl
  | some x =>
    have hident : x.ident = k := by simpa using List.find?_some hfound
    simp [hident]

/-- The slot that a removed entry names takes the ending's outcome (R157). -/
theorem State.removeHold_slots {s : State} {i : Fin 16} {k : Ending} {e : Hold} {q : Fin 4} {o : SlotOutcome}
    (he : s.hold[i] = some e) (hq : e.slot = some q) (ho : k.slotOutcome = some o) :
    (s.removeHold i k).slots[q] = .complete e.ident.serial o e.attempts := by
  have hslots : (s.removeHold i k).slots = setAt s.slots q (.complete e.ident.serial o e.attempts) := by
    unfold State.removeHold
    rw [he]
    dsimp only
    split <;> simp [State.completeSlot_some hq ho]
  rw [hslots, setAt_same]

/-- Only an echo reaches the rate level (R136). -/
theorem State.removeHold_rate (s : State) (i : Fin 16) {k : Ending} (hk : k ≠ .echoed) :
    (s.removeHold i k).rate = s.rate := by
  unfold State.removeHold
  split
  · rfl
  · simp [hk]

/-- What is left of a removed entry: a freed chain, a settled seen entry, a completed slot (R61, R75, R157). -/
theorem State.removeHold_gone {s : State} {i : Fin 16} (k : Ending) {e : Hold}
    (hnodup : (s.seen.map Seen.ident).Nodup) (hpending : ∃ x ∈ s.seen, x.ident = e.ident ∧ x.status = .pending)
    (he : s.hold[i] = some e) : Claim.Removed s (s.removeHold i k) i e k.seenStatus k.slotOutcome := by
  obtain ⟨hhold, hfree, hseen, -⟩ := State.removeHold_some (k := k) he
  obtain ⟨x, hx, hident, hstatus⟩ := hpending
  refine ⟨⟨by rw [hhold, setAt_same], hfree, ⟨x.settleAs k.seenStatus, ?_, ?_⟩,
    fun q o hq ho => State.removeHold_slots he hq ho⟩, fun j hj => ?_⟩
  · have hfound := State.findSeen_of_mem hnodup hx
    rw [hident, State.findSeen] at hfound
    rw [State.findSeen, hseen, find?_updated _ _ (Seen.settleAs_ident _), hfound]
    rfl
  · rw [Seen.settleAs, if_pos hstatus]
  · rw [hhold, setAt_other _ _ (Ne.symm hj)]

/-- The seen list's law of one entry (R64). -/
theorem SeenLaw.pending {s : State} (h : SeenLaw s) {i : Fin 16} {e : Hold} (he : s.hold[i] = some e) :
    (s.seen.map Seen.ident).Nodup ∧ ∃ x ∈ s.seen, x.ident = e.ident ∧ x.status = .pending := by
  obtain ⟨-, hnodup, -, hpending, -⟩ := h
  refine ⟨hnodup, hpending e ?_⟩
  rw [State.holds, List.mem_filterMap]
  exact ⟨some e, Vector.mem_toList_iff.2 (he ▸ Vector.getElem_mem i.2), rfl⟩

/-- A removal asks for no grant (R15). -/
theorem State.removeHold_nextRequest {s : State} (h : s.nextRequest = none) (i : Fin 16) (k : Ending) :
    (s.removeHold i k).nextRequest = none := by
  refine State.nextRequest_none_of_fewer h (fun r hr => by simpa using hr) (fun hh => by simpa using hh)
    (fun j f hf _ => ?_) (fun hb => by simpa using hb)
  cases he : s.hold[i] with
  | none => rwa [State.removeHold_none he] at hf
  | some e =>
    rw [(State.removeHold_some he).1, setAt_get] at hf
    split at hf
    · cases hf
    · exact hf

theorem State.removeHold_quiet {s : State} (h : Claim.Quiet s) (i : Fin 16) (k : Ending) :
    Claim.Quiet (s.removeHold i k) := fun hrun htx =>
  State.removeHold_nextRequest (h (by simpa using hrun) (by simpa using htx)) i k

/-- An event that removes an entry where nothing requests (R75). -/
theorem State.removeHold_finish {s : State} {i : Fin 16} (k : Ending) {e : Hold} (hquiet : Claim.Quiet s)
    (hseen : SeenLaw s) (he : s.hold[i] = some e) :
    Claim.Removed s (s.removeHold i k).finish i e k.seenStatus k.slotOutcome
      ∧ (s.removeHold i k).finish.stats = k.counted s.stats := by
  obtain ⟨hnodup, hpending⟩ := hseen.pending he
  rw [State.finish_of_quiet (State.removeHold_quiet hquiet i k)]
  exact ⟨State.removeHold_gone k hnodup hpending he, (State.removeHold_some he).2.2.2⟩

/-! ### The recheck at a hold deadline (R91) -/

theorem State.overtaken_iff (s : State) (e : Hold) (a : Fin 4) : s.overtaken e a = true ↔
    ∃ x b, s.findSeen e.ident = some x ∧ x.bestRank = some b ∧ b ≤ s.ranks[a] := by
  simp only [State.overtaken, State.bestHeard, Option.any_eq_true, Option.bind_eq_some_iff, decide_eq_true_eq,
    ← BitVec.le_def]
  constructor
  · rintro ⟨b, ⟨x, hx, hb⟩, hle⟩
    exact ⟨x, b, hx, hb, hle⟩
  · rintro ⟨x, b, hx, hb, hle⟩
    exact ⟨b, ⟨x, hx, hb⟩, hle⟩

/-- The recheck's findings (R91). -/
theorem State.recheck_spec (s : State) (e : Hold) :
    let stale := ∃ g rs, e.goal = .upward g ∧ e.senderRank = some rs ∧ rs ≤ s.ranks[g]
    let lost := ∃ g, e.goal = .upward g ∧ e.senderRank = none ∧ s.ranks[g] = 4095
    let passed := ∃ g x b, e.goal = .upward g ∧ s.findSeen e.ident = some x ∧ x.bestRank = some b ∧ b ≤ s.ranks[g]
    (stale → s.recheck e = some .staleRank) ∧ (lost → s.recheck e = some .noRoute)
      ∧ (¬stale → ¬lost → passed → s.recheck e = some .suppressed)
      ∧ (¬stale → ¬lost → ¬passed → s.recheck e = none) := by
  dsimp only
  cases hgoal : e.goal with
  | spread zone => simp [State.recheck, hgoal]
  | upward a =>
    have hpassed : (∃ g x b, Goal.upward a = .upward g ∧ s.findSeen e.ident = some x ∧ x.bestRank = some b
        ∧ b ≤ s.ranks[g]) ↔ s.overtaken e a = true := by
      rw [s.overtaken_iff]
      simp
    rw [hpassed]
    cases hrank : e.senderRank with
    | none => by_cases hlost : s.ranks[a] = 4095#12 <;> simp [-Fin.getElem_fin, State.recheck, hgoal, hrank, hlost]
    | some rs =>
      by_cases hstale : rs ≤ s.ranks[a]
      · have : ¬s.ranks[a].toNat < rs.toNat := not_lt.2 (BitVec.le_def.1 hstale)
        simp [-Fin.getElem_fin, State.recheck, hgoal, hrank, hstale, this]
      · have : s.ranks[a].toNat < rs.toNat := not_le.1 fun h => hstale (BitVec.le_def.2 h)
        simp [-Fin.getElem_fin, State.recheck, hgoal, hrank, hstale, this]

/-! ### A READY entry granted (R15, R16, R93) -/

/-- A READY entry granted and deferred at once backs off; the fifteenth deferral drops it (R16, R93). -/
theorem State.grant_hold_of_busy {s : State} {i : Fin 16} {e : Hold} (hrx : s.rx.busy = true) (htx : s.tx = none)
    (he : s.hold[i] = some e) :
    (e.defers + 1 < 15 → s.grant (.hold i) = { s with
        jitter := jitterStep s.jitter
        hold := setAt s.hold i (some { e with
          state := .holding, deadline := Claim.backoff s s.nowMs, defers := e.defers + 1 }) })
      ∧ (15 ≤ e.defers + 1 → s.grant (.hold i)
        = State.removeHold { s with hold := setAt s.hold i (some { e with state := .assessing }) } i .channelBusy) := by
  have hgranted : (s.granted (.hold i)).hold[i] = some { e with state := .assessing } := by
    rw [State.granted_hold he, setAt_same]
  rw [State.grant_of_busy hrx, State.deferOwner]
  simp only [hgranted]
  refine ⟨fun hlt => ?_, fun hge => ?_⟩
  · rw [if_pos hlt]
    simp only [State.granted, State.markGranted, he, State.drawn, State.setHold, setAt_setAt]
    cases s
    subst htx
    rfl
  · rw [if_neg (by omega)]
    simp only [State.granted, State.markGranted, he, State.setHold]
    cases s
    subst htx
    rfl

end Sys2Proof.Machine
end

section
namespace Sys2Proof.Machine

/-- A grant by name: for CCA_MS from the time of the grant, at the owner's rate (R7, R15). -/
theorem State.granted_to (s : State) (o : Owner) : Claim.GrantedTo o (s.grantRate o) s (s.granted o) := by
  have hnow : (s.granted o).now = s.now := by rw [State.granted_frame]
  rw [Claim.GrantedTo, hnow]
  rfl

/-! ### A hold deadline (R91 to R93) -/

/-- The row of a hold deadline that has come (R91). -/
theorem exec_holdDeadline_over {t : Time} {i : Fin 16} {s : State} {e : Hold} (he : s.hold[i] = some e)
    (hstate : e.state = .holding) (hd : e.deadline ≤ max s.now t / 96) :
    exec (.holdDeadlineExpiry t i) s = .next ((s.advance t).expireHold i e).finish := by
  simp only [exec, execHoldDeadlineExpiry, State.advance_hold, he]
  exact if_pos ⟨hstate, hd⟩

theorem State.expireHold_ending {s : State} {e : Hold} {k : Ending} (h : s.recheck e = some k) (i : Fin 16) :
    s.expireHold i e = s.removeHold i k := by
  simp only [State.expireHold, h]

theorem State.expireHold_ready {s : State} {e : Hold} (h : s.recheck e = none) (i : Fin 16) :
    s.expireHold i e = s.setHold i (some { e with state := .ready }) := by
  simp only [State.expireHold, h]

section Ready

variable {s : State} {i : Fin 16} {e : Hold}

/-- The one entry turned READY is the one request (R15, R92). -/
theorem nextRequest_setHold_ready (h : s.nextRequest = none) (i : Fin 16) (e : Hold) :
    (s.setHold i (some { e with state := .ready })).nextRequest = some (.hold i) := by
  obtain ⟨hbeacon, hhush, hready, -⟩ := s.nextRequest_eq_none_iff.1 h
  refine State.nextRequest_hold hbeacon hhush (State.readyHold_eq_some (setAt_same _ _ _) rfl fun j f hf hr => ?_)
  rcases eq_or_ne i j with rfl | hj
  · rw [State.setHold_hold, setAt_same, Option.some.injEq] at hf
    exact .inr ⟨by rw [← hf], le_rfl⟩
  · rw [State.setHold_hold, setAt_other _ _ hj] at hf
    exact absurd hr (hready j f hf)

/-- Where the entry at one index is not READY and the others are as before, still none requests (R15). -/
theorem nextRequest_none_of_setAt {u : State} {f : Hold} (h : s.nextRequest = none) (hbeacon : u.beacon = s.beacon)
    (hqueue : u.hushQueue = s.hushQueue) (hhead : u.hushHead = s.hushHead) (hburst : u.burst = s.burst)
    (hhold : u.hold = setAt s.hold i (some f)) (hf : f.state ≠ .ready) : u.nextRequest = none := by
  refine State.nextRequest_none_of_fewer h (by simp [hbeacon]) (by simp [hqueue, hhead]) (fun j g hg hr => ?_)
    (by simp [hburst])
  rw [hhold, setAt_get] at hg
  split at hg
  · cases hg
    exact absurd hr hf
  · exact hg

/-- The entry turned READY while the receiver has a frame: its grant is deferred at once (R16, R92, R93). -/
theorem grant_ready_of_busy (he : s.hold[i] = some e) (hrx : s.rx.busy = true) (htx : s.tx = none)
    (hseen : SeenLaw s) (hnone : s.nextRequest = none) :
    let u := (s.setHold i (some { e with state := .ready })).grant (.hold i)
    u.nextRequest = none ∧ (∀ j : Fin 16, j ≠ i → u.hold[j] = s.hold[j])
      ∧ (e.defers + 1 < 15 → u.jitter = jitterStep s.jitter ∧ u.hold[i] = some { e with
          state := .holding, deadline := Claim.backoff s s.nowMs, defers := e.defers + 1 })
      ∧ (15 ≤ e.defers + 1 → u.jitter = s.jitter ∧ Claim.Removed s u i e .dropped (some (.dropped .channelBusy))
          ∧ u.stats = Ending.channelBusy.counted s.stats) := by
  intro u
  obtain ⟨hdefer, hdrop⟩ := State.grant_hold_of_busy (s := s.setHold i (some { e with state := .ready })) hrx htx
    (setAt_same ..)
  rw [State.setHold_hold, setAt_setAt] at hdefer hdrop
  by_cases hlt : e.defers + 1 < 15
  · obtain hu : u = { s with jitter := jitterStep s.jitter, hold := setAt s.hold i (some { e with
        state := .holding, deadline := Claim.backoff s s.nowMs, defers := e.defers + 1 }) } := hdefer hlt
    clear_value u
    subst hu
    exact ⟨nextRequest_none_of_setAt hnone rfl rfl rfl rfl rfl (by simp), fun j hj => setAt_other _ _ hj.symm,
      fun _ => ⟨rfl, setAt_same _ _ _⟩, fun h => absurd hlt (by omega)⟩
  · obtain ⟨hnodup, hpending⟩ := hseen.pending he
    let v : State := { s with hold := setAt s.hold i (some { e with state := .assessing }) }
    have hi : v.hold[i] = some { e with state := .assessing } := setAt_same ..
    obtain hu : u = v.removeHold i .channelBusy := hdrop (not_lt.1 hlt)
    clear_value u
    subst hu
    obtain ⟨hgone, hothers⟩ := State.removeHold_gone (s := v) (e := { e with state := .assessing }) .channelBusy hnodup hpending hi
    have hkept (j : Fin 16) (hj : j ≠ i) : (v.removeHold i .channelBusy).hold[j] = s.hold[j] :=
      (hothers j hj).trans (setAt_other _ _ hj.symm)
    have hv : v.nextRequest = none :=
      nextRequest_none_of_setAt (f := { e with state := .assessing }) hnone rfl rfl rfl rfl rfl (by simp)
    exact ⟨State.removeHold_nextRequest hv i _, hkept,
      fun h => absurd h hlt, fun _ => ⟨by simp [v], ⟨hgone, hkept⟩, (State.removeHold_some hi).2.2.2⟩⟩

end Ready

/-- The end of the event that turns an entry READY (R15, R16, R92, R93). -/
theorem finish_hold_ready {s : State} {i : Fin 16} {e : Hold} (he : s.hold[i] = some e) (hquiet : Claim.Quiet s)
    (hseen : SeenLaw s) :
    let v := s.setHold i (some { e with state := .ready })
    let u := v.finish
    (Claim.FreeToGrant s → u.hold[i] = some { e with state := .assessing } ∧ Claim.GrantedTo (.hold i) s.rate s u)
      ∧ (s.station = .running → s.tx = none → Claim.Engaged s → u.tx = none
        ∧ (e.defers + 1 < 15 → u.jitter = jitterStep s.jitter ∧ u.hold[i] = some { e with
            state := .holding, deadline := Claim.backoff s s.nowMs, defers := e.defers + 1 })
        ∧ (15 ≤ e.defers + 1 → u.jitter = s.jitter
            ∧ Claim.Removed s u i e .dropped (some (.dropped .channelBusy))
            ∧ u.stats = Ending.channelBusy.counted s.stats))
      ∧ (s.station ≠ .running ∨ s.tx.isSome → u.hold[i] = some { e with state := .ready } ∧ u.tx = s.tx)
      ∧ ∀ j : Fin 16, j ≠ i → u.hold[j] = s.hold[j] := by
  intro v u
  by_cases hidle : s.station = .running ∧ s.tx = none
  · obtain ⟨hrun, htx⟩ := hidle
    have hnone := hquiet hrun htx
    have hother : ¬(s.station ≠ .running ∨ s.tx.isSome) := by simp [hrun, htx]
    cases hrx : s.rx.busy with
    | false =>
      have hu : u = (v.granted (.hold i)).settle :=
        State.finish_granted (s := v) hrx hrun htx (nextRequest_setHold_ready hnone i e)
      have hhold : (v.granted (.hold i)).hold = setAt s.hold i (some { e with state := .assessing }) := by
        rw [State.granted_hold (setAt_same _ _ _), State.setHold_hold, setAt_setAt]
      rw [hu]
      refine ⟨fun _ => ⟨?_, ?_⟩, fun _ _ heng => ?_, fun h => absurd h hother, fun j hj => ?_⟩
      · rw [State.settle_hold, hhold, setAt_same]
      · exact v.granted_to (.hold i)
      · rw [busy_of_engaged heng] at hrx
        cases hrx
      · rw [State.settle_hold, hhold, setAt_other _ _ hj.symm]
    | true =>
      obtain ⟨hlast, hothers, hdefer, hdrop⟩ := grant_ready_of_busy he hrx htx hseen hnone
      have hu : u = (v.grant (.hold i)).settle :=
        State.finish_deferred (s := v) hrun htx (nextRequest_setHold_ready hnone i e) hlast
      rw [hu]
      refine ⟨fun hfree => ?_, fun _ _ _ => ⟨?_, hdefer, hdrop⟩, fun h => absurd h hother, hothers⟩
      · rw [idle_of_free hfree] at hrx
        cases hrx
      · rw [State.settle_tx, State.grant_of_busy (s := v) hrx, State.deferOwner_tx]
  · have hu : u = v.settle := State.finish_of_quiet (s := v) fun hrun htx => absurd ⟨hrun, htx⟩ hidle
    rw [hu]
    refine ⟨fun hfree => absurd ⟨hfree.1, hfree.2.1⟩ hidle, fun hrun htx => absurd ⟨hrun, htx⟩ hidle,
      fun _ => ⟨setAt_same _ _ _, rfl⟩, fun j hj => setAt_other _ _ hj.symm⟩

/-- Settles O33: the recheck's finding decides, and an entry that may send is the one request. -/
theorem holdExpiryRechecksTheEntry : Obligations.HoldExpiryRechecksTheEntry := by
  intro t i s e he hstate hd hquiet hseen _
  obtain ⟨hstale, hlost, hpassed, hsends⟩ := (s.advance t).recheck_spec e
  have removed (k : Ending) (hk : (s.advance t).recheck e = some k) := by
    have := State.removeHold_finish (s := s.advance t) k hquiet hseen he
    rwa [← State.expireHold_ending hk i] at this
  refine ⟨_, exec_holdDeadline_over he hstate hd, fun h => ?_, fun h => ?_, fun h1 h2 h3 => ?_, fun h1 h2 h3 => ?_⟩
  · obtain ⟨hremoved, hstats⟩ := removed .staleRank (hstale h)
    exact ⟨hremoved, by rw [hstats]; rfl⟩
  · obtain ⟨hremoved, hstats⟩ := removed .noRoute (hlost h)
    exact ⟨hremoved, by rw [hstats]; rfl⟩
  · obtain ⟨hremoved, hstats⟩ := removed .suppressed (hpassed h1 h2 h3)
    exact ⟨hremoved, by rw [hstats]; rfl⟩
  · rw [State.expireHold_ready (hsends h1 h2 h3)]
    obtain ⟨free, engaged, other, kept⟩ := finish_hold_ready (s := s.advance t) he hquiet hseen
    refine ⟨free, fun hrun htx heng => ?_, other, kept⟩
    obtain ⟨hidle, hdefer, hdrop⟩ := engaged hrun htx heng
    refine ⟨hidle, hdefer, fun h => ?_⟩
    obtain ⟨hjitter, hremoved, hstats⟩ := hdrop h
    exact ⟨hjitter, hremoved, by rw [hstats]; rfl⟩

end Sys2Proof.Machine
end

section
namespace Sys2Proof.Machine

/-! ### The order of grants (R15, R112) -/

/-- The requests that stand in `w`, and what their grants read, are those of `v` (R15). -/
def SameRequests (v w : State) : Prop :=
  (∀ r, w.beacon = .due r ↔ v.beacon = .due r)
    ∧ ((w.hushQueue ≠ [] ∧ w.hushHead = .standing) ↔ (v.hushQueue ≠ [] ∧ v.hushHead = .standing))
    ∧ (∀ (i : Fin 16) (e : Hold), e.state = .ready → (w.hold[i] = some e ↔ v.hold[i] = some e))
    ∧ (w.burst = .due ↔ v.burst = .due)
    ∧ w.rate = v.rate ∧ w.burstRec.rate = v.burstRec.rate ∧ w.cfg = v.cfg

/-- The next request granted at the end of an event (R7, R15). -/
theorem finish_granted_to {w : State} {o : Owner} (hrx : w.rx.busy = false) (hrun : w.station = .running)
    (htx : w.tx = none) (ho : w.nextRequest = some o) :
    w.finish = (w.granted o).settle ∧ Claim.GrantedTo o (w.grantRate o) w w.finish := by
  rw [State.finish_granted hrx hrun htx ho]
  exact ⟨rfl, w.granted_to o⟩

/-- Where the receiver has no frame the end of an event grants the requests of a state `v` in order (R15). -/
theorem finish_grantedInOrder {v w : State} (h : SameRequests v w) (hrx : w.rx.busy = false)
    (hrun : w.station = .running) (htx : w.tx = none) : Claim.GrantedInOrder v w.finish := by
  obtain ⟨hbeacon, hhush, hready, hsurvey, hrate, hburstRate, hcfg⟩ := h
  have grant {o : Owner} {rate : Rate} (ho : w.nextRequest = some o) (hr : w.grantRate o = rate) :
      w.finish = (w.granted o).settle ∧ Claim.GrantedTo o rate v w.finish := by
    obtain ⟨hu, hto⟩ := finish_granted_to hrx hrun htx ho
    rw [Claim.GrantedTo, hr, hcfg] at hto
    exact ⟨hu, hto⟩
  refine ⟨fun r hr => ?_, fun hnobeacon => ⟨fun hstanding => ?_, fun hnohush =>
    ⟨fun i e he hstate hleast => ?_, fun hnoready => ⟨fun hdue => ?_, fun hnosurvey => ?_⟩⟩⟩⟩
  · have hdue := (hbeacon r).2 hr
    obtain ⟨hu, hto⟩ := grant (State.nextRequest_beacon hdue) rfl
    exact ⟨hto, by rw [hu, State.settle_beacon, State.granted_beacon hdue]⟩
  all_goals have hb (r : Millis) : w.beacon ≠ .due r := fun hr => hnobeacon r ((hbeacon r).1 hr)
  · obtain ⟨hq, hhead⟩ := hhush.2 hstanding
    obtain ⟨hu, hto⟩ := grant (State.nextRequest_hush hb hq hhead) rfl
    exact ⟨hto, by rw [hu]; rfl⟩
  all_goals have hh : ¬(w.hushQueue ≠ [] ∧ w.hushHead = .standing) := fun hw => hnohush (hhush.1 hw)
  · have hwe := (hready i e hstate).2 he
    have hfirst := State.readyHold_eq_some hwe hstate fun j f hf hr => hleast j f ((hready j f hr).1 hf) hr
    obtain ⟨hu, hto⟩ := grant (State.nextRequest_hold hb hh hfirst) hrate
    exact ⟨hto, by rw [hu, State.settle_hold, State.granted_hold hwe, setAt_same]⟩
  all_goals
    have hn (i : Fin 16) (e : Hold) (he : w.hold[i] = some e) : e.state ≠ .ready := fun hr =>
      hnoready i e ((hready i e hr).1 he) hr
  · obtain ⟨hu, hto⟩ := grant (State.nextRequest_survey hb hh hn (hsurvey.2 hdue)) hburstRate
    exact ⟨hto, by rw [hu]; rfl⟩
  · have hnone := w.nextRequest_eq_none_iff.2 ⟨hb, hh, hn, fun hdue => hnosurvey (hsurvey.1 hdue)⟩
    rw [State.finish_of_quiet (quiet_of_none hnone), State.settle_tx, htx]

/-! ### The end of an event where the receiver has no frame (R15) -/

section Idle

variable {w : State}

/-- What the end of an event can do: no grant, or one (R15). -/
theorem finish_cases (hrx : w.rx.busy = false) :
    w.finish = w.settle ∨ ∃ o, w.nextRequest = some o ∧ w.finish = (w.granted o).settle := by
  rcases State.arbitrate_cases hrx with ⟨-, h⟩ | ⟨o, -, -, ho, h⟩
  · exact .inl (by rw [State.finish, h])
  · exact .inr ⟨o, ho, by rw [State.finish, h]⟩

/-- One grant leaves the store, the seen list, the slots, the counters and the rate level (R15). -/
theorem finish_keeps (hrx : w.rx.busy = false) :
    w.finish.free = w.free ∧ w.finish.seen = w.seen ∧ w.finish.slots = w.slots ∧ w.finish.stats = w.stats
      ∧ w.finish.rate = w.rate := by
  rcases finish_cases hrx with h | ⟨o, -, h⟩
  · rw [h]
    exact ⟨rfl, rfl, rfl, rfl, rfl⟩
  · rw [h, State.granted_frame]
    exact ⟨rfl, rfl, rfl, rfl, rfl⟩

/-- A transition source's status after the end of an event (R168, R169). -/
theorem finish_transition (hrx : w.rx.busy = false) {b : Nat} (hb : 7 ≤ b) (h12 : b < 12) :
    w.finish.statuses.getLsbD b = (w.masks.getLsbD b && w.statuses.getLsbD b) := by
  rcases finish_cases hrx with h | ⟨o, -, h⟩
  · rw [h, State.settle_transition _ hb h12]
  · rw [h, State.settle_transition _ hb h12, State.granted_frame]

/-- A hold entry is left alone or, READY, granted (R15). -/
theorem finish_hold (hrx : w.rx.busy = false) (j : Fin 16) :
    w.finish.hold[j] = w.hold[j] ∨ ∃ f, w.hold[j] = some f ∧ f.state = .ready
      ∧ w.finish.hold[j] = some { f with state := .assessing } ∧ Claim.GrantedTo (.hold j) w.rate w w.finish := by
  rcases finish_cases hrx with h | ⟨o, ho, h⟩
  · exact .inl (by rw [h, State.settle_hold])
  · rw [h, State.settle_hold]
    rcases eq_or_ne o (.hold j) with rfl | hne
    · obtain ⟨f, hf, hready⟩ := State.nextRequest_stands ho
      exact .inr ⟨f, hf, hready, by rw [State.granted_hold hf, setAt_same], w.granted_to (.hold j)⟩
    · exact .inl ((w.granted_others o).2.2.2 j hne)

/-- An entry that is gone stays gone (R75). -/
theorem finish_gone {s : State} {i : Fin 16} {e : Hold} {status : SeenStatus} {outcome : Option SlotOutcome}
    (hrx : w.rx.busy = false) (h : Claim.Gone s w i e status outcome) : Claim.Gone s w.finish i e status outcome := by
  obtain ⟨hfree, hseen, hslots, -, -⟩ := finish_keeps hrx
  obtain ⟨hhold, hchain, hfound, hslot⟩ := h
  refine ⟨?_, hfree.trans hchain, by rwa [State.findSeen, hseen], by rwa [hslots]⟩
  rcases finish_hold hrx i with hi | ⟨f, hf, -⟩
  · rw [hi, hhold]
  · rw [hhold] at hf
    cases hf

end Idle

/-! ### A frame sent (R17, R18, R55, R96, R112, R175) -/

/-- The radio at the end of BODY, before the owner is told "sent" (R17, R173). -/
def State.released (s : State) : State :=
  { s with tx := none, rx := .searching, rftx := [], stretch := some (s.nowMs + s.cfg.stretch) }

theorem State.endBody_eq (s : State) (a : Attempt) : s.endBody a = s.released.ownerSent a.owner := rfl

section Sent

variable {s : State}

/-- "sent" reaches the entry of the owner alone (R96). -/
theorem ownerSent_hold_other {o : Owner} {j : Fin 16} (h : o ≠ .hold j) : (s.ownerSent o).hold[j] = s.hold[j] := by
  cases o with
  | beacon => simp [State.ownerSent, State.beaconSent]
  | hush => rfl
  | survey => simp [State.ownerSent]
  | hold i =>
    have hi : i ≠ j := fun hi => h (by rw [hi])
    have hremoved (k : Ending) : (s.removeHold i k).hold[j] = s.hold[j] := by
      cases he : s.hold[i] with
      | none => rw [State.removeHold_none he]
      | some e => rw [(State.removeHold_some he).1, setAt_other _ _ hi]
    unfold State.ownerSent State.holdSent
    dsimp only
    repeat' split
    · rfl
    · exact hremoved _
    · exact setAt_other _ _ hi
    · exact hremoved _

section Hold

variable {i : Fin 16} {e : Hold}

/-- A SPREAD frame sent while RUNNING is relayed (R96). -/
theorem holdSent_spread (he : s.hold[i] = some e) (hrun : s.station = .running) (hd : e.goal.discipline = .spread) :
    s.holdSent i = s.removeHold i .sent := by
  cases hg : e.goal with
  | spread zone => simp only [State.holdSent, he, hrun, hg, if_true]
  | upward a => simp [hg, Goal.discipline] at hd

/-- An UPWARD frame sent while RUNNING awaits its echo (R96). -/
theorem holdSent_upward (he : s.hold[i] = some e) (hrun : s.station = .running) (hd : e.goal.discipline = .upward) :
    s.holdSent i = s.setHold i (some { e with
      state := .awaitingEcho
      deadline := s.nowMs + (s.cfg.holdMin + s.cfg.holdSpan + s.cfg.jitter + 32) }) := by
  cases hg : e.goal with
  | spread zone => simp [hg, Goal.discipline] at hd
  | upward a => simp only [State.holdSent, he, hrun, hg, if_true, echoWait]

/-- A frame sent while SILENT is dropped (R100). -/
theorem holdSent_silent (he : s.hold[i] = some e) (hs : s.station ≠ .running) :
    s.holdSent i = s.removeHold i .silenced := by
  simp only [State.holdSent, he, hs, if_false]

end Hold

/-- "sent" for a beacon leaves the requests as they were (R55). -/
theorem sameRequests_beaconSent {r : Millis} (h : s.beacon = .inAttempt r) : SameRequests s s.beaconSent := by
  simp [SameRequests, State.beaconSent, h, State.cfg]

/-- "sent" for a HUSH makes the next entry the head, STANDING, and leaves the other requests (R112). -/
theorem sameRequests_hushSent (s : State) :
    SameRequests { s with hushQueue := s.hushQueue.drop 1, hushHead := .standing } s.hushSent :=
  ⟨fun _ => .rfl, .rfl, fun _ _ _ => .rfl, .rfl, rfl, rfl, rfl⟩

/-- "sent" for a hold entry leaves the requests of the others as they were (R96, R100). -/
theorem sameRequests_holdSent {i : Fin 16} {e : Hold} (he : s.hold[i] = some e) (hsending : e.state = .sending) :
    SameRequests s (s.holdSent i) := by
  have hrate : (s.holdSent i).rate = s.rate := by
    unfold State.holdSent
    repeat' split
    all_goals simp [State.removeHold_rate]
  have hi : ∀ f, (s.holdSent i).hold[i] = some f → f.state ≠ .ready := by
    unfold State.holdSent
    rw [he]
    dsimp only
    repeat' split
    all_goals simp [-Fin.getElem_fin, (State.removeHold_some he).1, Option.some.injEq]
  refine ⟨by simp, by simp, fun j f hf => ?_, by simp, hrate, by simp, by simp [State.cfg]⟩
  rcases eq_or_ne i j with rfl | hj
  · refine ⟨fun h => absurd hf (hi f h), fun h => ?_⟩
    rw [he, Option.some.injEq] at h
    rw [← h, hsending] at hf
    cases hf
  · rw [show (s.holdSent i).hold[j] = s.hold[j] from ownerSent_hold_other (o := .hold i) fun h => hj (by injection h)]

/-- "sent" for a survey frame in attempt: the burst counts it, and ends or waits for the next (R175). -/
theorem surveySent_inAttempt (h : s.burst = .inAttempt) :
    s.surveySent.burstRec = { s.burstRec with sent := s.burstRec.sent + 1, next := s.burstRec.next + 1 }
      ∧ (s.burstRec.sent + 1 = s.burstRec.count → s.surveySent.burst = .stopped
        ∧ s.surveySent.statuses = s.statuses ||| (s.masks &&& bitIf true 9))
      ∧ (s.burstRec.sent + 1 ≠ s.burstRec.count → s.surveySent.burst = .waiting (s.nowMs + s.burstRec.interval)) := by
  simp only [State.surveySent, h]
  split
  · next hlast => exact ⟨rfl, fun _ => ⟨rfl, rfl⟩, fun hmore => absurd hlast hmore⟩
  · next hmore => exact ⟨rfl, fun hlast => absurd hlast hmore, fun _ => rfl⟩

/-- "sent" for a survey frame let finish ends the burst (R176). -/
theorem surveySent_ending (h : s.burst = .ending) : s.surveySent = { s with burst := .stopped } := by
  simp only [State.surveySent, h]

/-- "sent" for a survey frame requests nothing (R175). -/
theorem surveySent_due (h : s.surveySent.burst = .due) : s.burst = .due := by
  cases hb : s.burst with
  | due => rfl
  | ending => simp [surveySent_ending hb] at h
  | inAttempt =>
    obtain ⟨-, hlast, hmore⟩ := surveySent_inAttempt hb
    by_cases hc : s.burstRec.sent + 1 = s.burstRec.count
    · simp [(hlast hc).1] at h
    · simp [hmore hc] at h
  | stopped => simp [State.surveySent, hb] at h
  | waiting d => simp [State.surveySent, hb] at h
  | backoff d => simp [State.surveySent, hb] at h

/-- "sent" for a survey frame leaves the requests as they were (R175, R176). -/
theorem sameRequests_surveySent (h : s.burst = .inAttempt ∨ s.burst = .ending) : SameRequests s s.surveySent := by
  refine ⟨by simp, by simp, by simp, ⟨surveySent_due, fun hdue => ?_⟩, by simp, ?_, by simp [State.cfg]⟩
  · simp [hdue] at h
  · rcases h with h | h
    · rw [(surveySent_inAttempt h).1]
    · rw [surveySent_ending h]

end Sent

end Sys2Proof.Machine
end

section
namespace Sys2Proof.Machine

/-! ### The end of BODY (R17, R18, R96, R100, R112, R175) -/

theorem endBody_rx (s : State) (a : Attempt) : (s.endBody a).rx.busy = false := by
  rw [State.endBody_eq, (State.ownerSent_frame _ _).2.2.2.2.2.1]
  rfl

/-- A frame sent leaves the radio free, and the other hold entries but for one granted (R15, R17, R173). -/
theorem endBody_finish (s : State) (a : Attempt) : let u := (s.endBody a).finish
    u.rx = .searching ∧ u.stretch = some (s.nowMs + s.cfg.stretch)
      ∧ ∀ j : Fin 16, a.owner ≠ .hold j → u.hold[j] = s.hold[j]
        ∨ ∃ f, s.hold[j] = some f ∧ f.state = .ready
          ∧ u.hold[j] = some { f with state := .assessing } ∧ Claim.GrantedTo (.hold j) u.rate s u := by
  refine ⟨by simp [State.endBody_eq, State.released], by simp [State.endBody_eq, State.released], fun j hj => ?_⟩
  have hkept : (s.endBody a).hold[j] = s.hold[j] := ownerSent_hold_other hj
  have hcfg : (s.endBody a).cfg = s.cfg := by simp [State.endBody_eq, State.released, State.cfg]
  rcases finish_hold (endBody_rx s a) j with h | ⟨f, hf, hready, hu, hto⟩
  · exact .inl (h.trans hkept)
  · rw [Claim.GrantedTo, hcfg] at hto
    exact .inr ⟨f, hkept ▸ hf, hready, hu, by rwa [(finish_keeps (endBody_rx s a)).2.2.2.2]⟩

/-- The hold entry whose frame was sent: relayed, awaiting its echo, or dropped (R96, R100). -/
theorem endBody_hold {s : State} {a : Attempt} {i : Fin 16} {e : Hold} (hseen : SeenLaw s)
    (howner : a.owner = .hold i) (he : s.hold[i] = some e) : let u := (s.endBody a).finish
    (s.station = .running → e.goal.discipline = .spread →
        Claim.Gone s u i e .relayed (some .sent) ∧ u.stats = Ending.sent.counted s.stats)
      ∧ (s.station = .running → e.goal.discipline = .upward → u.hold[i] = some { e with
          state := .awaitingEcho
          deadline := s.nowMs + (s.cfg.holdMin + s.cfg.holdSpan + s.cfg.jitter + 32) }
        ∧ u.free = s.free ∧ u.seen = s.seen)
      ∧ (s.station ≠ .running → Claim.Gone s u i e .dropped (some (.dropped .silenced))
        ∧ u.stats = Ending.silenced.counted s.stats) := by
  have hrx := endBody_rx s a
  obtain ⟨hfree, hseenKept, -, hstats, -⟩ := finish_keeps hrx
  have hw : s.endBody a = s.released.holdSent i := by rw [State.endBody_eq, howner]; rfl
  obtain ⟨hnodup, hpending⟩ := hseen.pending he
  have gone (k : Ending) (hk : s.released.holdSent i = s.released.removeHold i k) :
      Claim.Gone s (s.endBody a).finish i e k.seenStatus k.slotOutcome
        ∧ (s.endBody a).finish.stats = k.counted s.stats := by
    refine ⟨finish_gone hrx ?_, hstats.trans ?_⟩
    · rw [hw, hk]
      exact (State.removeHold_gone (s := s.released) k hnodup hpending he).1
    · rw [hw, hk]
      exact (State.removeHold_some (s := s.released) he).2.2.2
  refine ⟨fun hrun hd => gone .sent (holdSent_spread he hrun hd), fun hrun hd => ?_,
    fun hsilent => gone .silenced (holdSent_silent he hsilent)⟩
  rw [holdSent_upward (s := s.released) he hrun hd] at hw
  have hawaiting : (s.endBody a).hold[i] = some { e with
      state := .awaitingEcho
      deadline := s.nowMs + (s.cfg.holdMin + s.cfg.holdSpan + s.cfg.jitter + 32) } := by
    rw [hw]
    exact setAt_same _ _ _
  refine ⟨?_, hfree.trans (by rw [hw]; rfl), hseenKept.trans (by rw [hw]; rfl)⟩
  rcases finish_hold hrx i with h | ⟨f, hf, hready, -⟩
  · exact h.trans hawaiting
  · rw [hawaiting, Option.some.injEq] at hf
    rw [← hf] at hready
    cases hready

/-- A survey frame sent: the burst goes on, ends or is over (R175, R176). -/
theorem endBody_survey (s : State) {a : Attempt} (howner : a.owner = .survey) : let u := (s.endBody a).finish
    (s.nextRequest = none → u.tx = none)
      ∧ (s.burst = .inAttempt → u.burstRec = { s.burstRec with sent := s.burstRec.sent + 1, next := s.burstRec.next + 1 }
        ∧ (s.burstRec.sent + 1 = s.burstRec.count → u.burst = .stopped ∧ u.statuses.getLsbD 9 = s.masks.getLsbD 9)
        ∧ (s.burstRec.sent + 1 ≠ s.burstRec.count → u.burst = .waiting (s.nowMs + s.burstRec.interval)))
      ∧ (s.burst = .ending → u.burst = .stopped ∧ u.burstRec = s.burstRec
        ∧ u.statuses.getLsbD 9 = (s.masks.getLsbD 9 && s.statuses.getLsbD 9)) := by
  dsimp only
  have hrx := endBody_rx s a
  have hw : s.endBody a = s.released.surveySent := by rw [State.endBody_eq, howner]; rfl
  rw [hw] at hrx ⊢
  have hrec : s.released.surveySent.finish.burstRec = s.released.surveySent.burstRec := by simp
  have hmasks : s.released.surveySent.masks = s.masks := by simp [State.released]
  have hstatus := finish_transition hrx (b := 9) (by omega) (by omega)
  rw [hmasks] at hstatus
  have hkept (h : s.released.surveySent.burst ≠ .due) :
      s.released.surveySent.finish.burst = s.released.surveySent.burst :=
    (State.arbitrateUpTo_others 19 _).2.2 h
  refine ⟨fun hnone => ?_, fun hin => ?_, fun hending => ?_⟩
  · have hquiet : s.released.surveySent.nextRequest = none :=
      State.nextRequest_none_of_fewer hnone (by simp [State.released]) (by simp [State.released])
        (fun i e he _ => by simpa [State.released] using he) surveySent_due
    rw [State.finish_of_quiet (quiet_of_none hquiet)]
    simp [State.released]
  · obtain ⟨hcounted, hlast, hmore⟩ := surveySent_inAttempt (s := s.released) hin
    refine ⟨hrec.trans hcounted, fun hc => ?_, fun hc => ?_⟩
    · obtain ⟨hstopped, hreported⟩ := hlast hc
      refine ⟨(hkept (by simp [hstopped])).trans hstopped, ?_⟩
      rw [hstatus, hreported]
      simp +contextual [State.released, bitIf]
    · exact (hkept (by simp [hmore hc])).trans (hmore hc)
  · have hover := surveySent_ending (s := s.released) hending
    refine ⟨?_, hrec.trans (by rw [hover]; rfl), by rw [hstatus, hover]; rfl⟩
    rw [hkept (by simp [hover]), hover]

/-- "sent" leaves the requests as they were, but for a HUSH, whose queue moves up (R55, R96, R112, R175). -/
theorem sameRequests_endBody {s : State} {a : Attempt} (ha : s.tx = some a) (hp : a.phase = .body) (h : OwnerLaw s) :
    SameRequests (if a.owner = .hush then { s with hushQueue := s.hushQueue.drop 1, hushHead := .standing } else s)
      (s.endBody a) := by
  obtain ⟨-, hbeacon, -, hsurvey, -, hheld, hentries⟩ := h
  rw [State.endBody_eq]
  cases ho : a.owner with
  | beacon =>
    obtain ⟨r, hr⟩ := hbeacon.2 (by simp [ha, ho])
    exact sameRequests_beaconSent (s := s.released) hr
  | hush => exact sameRequests_hushSent s.released
  | survey => exact sameRequests_surveySent (s := s.released) (hsurvey.2 (by simp [ha, ho]))
  | hold i =>
    obtain ⟨e, he⟩ := Option.isSome_iff_exists.1 (hheld a ha i ho)
    have hsending := (hentries i e he).2.2 (by simp [ha, ho, Attempt.pastAssessing, hp])
    exact sameRequests_holdSent (s := s.released) he hsending

/-- Settles O31: "sent" to the owner, and then one end of an event with the receiver SEARCHING. -/
theorem sentHushHoldAndSurvey : Obligations.SentHushHoldAndSurvey := by
  refine ⟨fun t s a ha hp hends hseen => ⟨_, exec_bodyEnd_over ha hends hp, ?_⟩,
    fun t s a ha hp hends howner => ⟨_, exec_bodyEnd_over ha hends hp, ?_⟩,
    fun t s a ha hp hends hlaw => ⟨_, exec_bodyEnd_over ha hends hp, fun hrun => ?_, fun hother => ?_⟩⟩
  · obtain ⟨hrx, hstretch, hothers⟩ := endBody_finish (s.advance t) a
    refine ⟨hrx, hstretch, hothers, fun howner => ?_, fun i e howner he _ => ?_⟩
    · simp [State.endBody_eq, howner, State.ownerSent, State.hushSent, State.released]
    · obtain ⟨hspread, hupward, hsilent⟩ := endBody_hold (s := s.advance t) hseen howner he
      refine ⟨fun hrun hd => ?_, hupward, fun hs => ?_⟩
      · obtain ⟨hgone, hstats⟩ := hspread hrun hd
        exact ⟨hgone, by rw [hstats]; rfl⟩
      · obtain ⟨hgone, hstats⟩ := hsilent (by simp [hs])
        exact ⟨hgone, by rw [hstats]; rfl⟩
  · obtain ⟨hrx, hstretch, -⟩ := endBody_finish (s.advance t) a
    obtain ⟨hidle, hin, hending⟩ := endBody_survey (s.advance t) howner
    exact ⟨hrx, hidle, hstretch, hin, hending⟩
  · refine finish_grantedInOrder ?_ (endBody_rx _ a) (by simpa [State.endBody_eq, State.released] using hrun)
      (by simp [State.endBody_eq, State.released])
    have hsame := sameRequests_endBody (s := s.advance t) ha hp hlaw
    split_ifs at hsame ⊢ <;> exact hsame
  · rw [State.finish_of_quiet (quiet_of_not_running (by simpa [State.endBody_eq, State.released] using hother))]
    simp [State.endBody_eq, State.released]

end Sys2Proof.Machine
end

section
namespace Sys2Proof.Machine

/-! ### RESUME (R57, R113, R167) -/

/-- RESUME while SILENT: RUNNING, and the end of an event (R167). -/
theorem exec_resume {s : State} (h : s.station = .silent) (t : Time) : exec (.resume t) s
    = .next (State.finish { s with now := max s.now t, station := .running }).ok := by
  simp only [exec, execResume, State.port, State.advance_station, h, portRefusal]
  rfl

/-- Where the receiver has a frame the first request is deferred and stays so (R15, R16). -/
theorem arbitrate_deferred {v : State} (hrun : v.station = .running) (htx : v.tx = none) (hrx : v.rx.busy = true) :
    (∀ r, v.beacon = .due r → v.arbitrate.beacon = .backoff (Claim.backoff v v.nowMs) r)
      ∧ ((∀ r, v.beacon ≠ .due r) → v.hushQueue ≠ [] → v.hushHead = .standing →
        v.arbitrate.hushHead = .backoff (Claim.backoff v v.nowMs)) := by
  refine ⟨fun r hr => ?_, fun hbeacon hq hhead => ?_⟩
  · rw [State.arbitrate_first hrun htx (State.nextRequest_beacon hr), State.grant_beacon_of_busy hrx htx hr]
    exact (State.arbitrateUpTo_others 18 _).1 fun _ h => by cases h
  · rw [State.arbitrate_first hrun htx (State.nextRequest_hush hbeacon hq hhead), State.grant_hush_of_busy hrx htx]
    exact (State.arbitrateUpTo_others 18 _).2.1 fun h => by cases h

/-- Settles O49: RUNNING again, and what stands is granted or deferred at the end of the event. -/
theorem resumeGrantsWhatStands : Obligations.ResumeGrantsWhatStands := by
  intro t s hsilent
  let v : State := { s with now := max s.now t, station := .running }
  have hsame : SameRequests s v := ⟨fun _ => .rfl, .rfl, fun _ _ _ => .rfl, .rfl, rfl, rfl, rfl⟩
  refine ⟨v.finish.ok, exec_resume hsilent t, v.finish_frame.2.2.1, rfl, fun hs hquiet => ?_, fun htx hrx => ?_,
    fun htx hengaged => ?_⟩
  · have hv : Claim.Quiet v := hquiet.elim (fun hnone => quiet_of_none (s := v) hnone)
      fun hsome => quiet_of_tx (s := v) (Option.get_mem hsome)
    rw [State.finish_eq_self hv hs ⟨rfl, rfl, rfl, rfl, rfl, rfl, rfl, rfl⟩]
    rfl
  · have hidle : v.rx.busy = false := by simp [v, hrx, Receiver.busy]
    exact finish_grantedInOrder hsame hidle rfl htx
  · have hbusy : v.rx.busy = true := busy_of_engaged hengaged
    obtain ⟨hbeacon, hhush⟩ := arbitrate_deferred (v := v) rfl htx hbusy
    exact ⟨State.arbitrate_tx_of_busy (s := v) hbusy htx, hbeacon, hhush⟩

/-! ### SURVEY (R174) -/

/-- The record a burst starts with (R174). -/
def startRecord (count interval : BitVec 16) (rate fill : Byte) : BurstRecord :=
  ⟨max 1 (min 1000 count.toNat), max 10 (min 1000 interval.toNat),
    if rate = 0 then .slow else if rate = 1 then .mid else .fast, min 48 fill.toNat, 0, 0⟩

theorem rateOf_toNat (rate : Byte) :
    rateOf rate.toNat = if rate = 0 then .slow else if rate = 1 then .mid else .fast := by
  by_cases h0 : rate = 0
  · subst h0
    rfl
  · by_cases h1 : rate = 1
    · subst h1
      rfl
    · rw [if_neg h0, if_neg h1]
      have hn0 : rate.toNat ≠ 0 := fun h => h0 (BitVec.eq_of_toNat_eq h)
      have hn1 : rate.toNat ≠ 1 := fun h => h1 (BitVec.eq_of_toNat_eq h)
      unfold rateOf
      split
      · next h => exact absurd h hn0
      · next h => exact absurd h hn1
      · rfl

section Survey

variable {t : Time} {count interval : BitVec 16} {rate fill : Byte} {s : State}

/-- SURVEY while a burst is in progress (R174). -/
theorem exec_survey_bad (hrun : s.station = .running) (hb : s.burst ≠ .stopped) :
    exec (.survey t count interval rate fill) s = .next (Claim.answered s t [0x02]) := by
  simp only [exec, execSurvey, State.port, State.advance_station, hrun, portRefusal, State.advance_burst, hb, if_false]
  rfl

/-- SURVEY starts a burst with its first frame due (R174). -/
theorem exec_survey_start (hrun : s.station = .running) (hb : s.burst = .stopped) :
    exec (.survey t count interval rate fill) s = .next (State.finish { s with
      now := max s.now t, burst := .due, burstRec := startRecord count interval rate fill }).ok := by
  simp only [exec, execSurvey, State.port, State.advance_station, hrun, portRefusal, State.advance_burst, hb, if_true,
    rateOf_toNat]
  rfl

/-- The first frame of a burst is granted, deferred or stands (R15, R16, R174). -/
theorem finish_survey_start (hrun : s.station = .running) (n : Time) (record : BurstRecord) :
    let v : State := { s with now := n, burst := .due, burstRec := record }
    let u := v.finish
    u.burstRec = record ∧ (s.tx.isSome → u.burst = .due)
      ∧ (Claim.FreeToGrant s → u.burst = .inAttempt ∧ Claim.GrantedTo .survey u.burstRec.rate s u)
      ∧ (s.tx = none → s.nextRequest = none → Claim.Engaged s → u.tx = none
        ∧ u.burst = .backoff (Claim.backoff s (n / 96)) ∧ u.jitter = jitterStep s.jitter) := by
  intro v u
  have hrec : u.burstRec = record := by simp [u, v]
  have hsurvey (hnone : s.nextRequest = none) : v.nextRequest = some .survey := by
    obtain ⟨hbeacon, hhush, hready, -⟩ := s.nextRequest_eq_none_iff.1 hnone
    exact State.nextRequest_survey hbeacon hhush hready rfl
  refine ⟨hrec, fun hsome => ?_, fun hfree => ?_, fun htx hnone hengaged => ?_⟩
  · have hu : u = v.settle := State.finish_of_quiet (quiet_of_tx (s := v) (Option.get_mem hsome))
    rw [hu]
    rfl
  · have hidle : v.rx.busy = false := idle_of_free (s := s) hfree
    obtain ⟨-, htx, -, hnone⟩ := hfree
    have hu : u = (v.granted .survey).settle := State.finish_granted hidle hrun htx (hsurvey hnone)
    rw [hrec, hu]
    exact ⟨rfl, v.granted_to .survey⟩
  · have hgrant := State.grant_survey_of_busy (s := v) (busy_of_engaged (s := s) hengaged) htx
    have hlast : (v.grant .survey).nextRequest = none := by
      rw [hgrant]
      exact State.nextRequest_none_of_fewer hnone (fun _ h => h) id (fun _ _ h _ => h) fun h => by cases h
    have hu : u = (v.grant .survey).settle := State.finish_deferred (s := v) hrun htx (hsurvey hnone) hlast
    rw [hu, hgrant]
    exact ⟨htx, rfl, rfl⟩

end Survey

/-! ### STOP_SURVEY (R176) -/

section StopSurvey

variable {t : Time} {s : State}

theorem exec_stopSurvey (h : s.station = .running ∨ s.station = .silent) :
    exec (.stopSurvey t) s = .next (s.advance t).cancelSurvey.endBurst.finish.ok := by
  rcases h with h | h <;> simp only [exec, execStopSurvey, State.port, State.advance_station, h, portRefusal]

/-- A survey frame in ASSESSING is given up (R19, R176). -/
theorem State.cancelSurvey_assessing {a : Attempt} (ha : s.tx = some a) (ho : a.owner = .survey)
    (hp : a.phase = .assessing) : s.cancelSurvey = { s with tx := none, burst := .stopped } := by
  simp only [State.cancelSurvey, ha, ho, hp, and_self, if_true, State.cancelOwner]

/-- Any other attempt goes on (R19, R176). -/
theorem State.cancelSurvey_other (h : ∀ a, s.tx = some a → a.owner = .survey → a.phase ≠ .assessing) :
    s.cancelSurvey = s := by
  unfold State.cancelSurvey
  split
  · next a ha => exact if_neg fun hc => h a ha hc.2 hc.1
  · rfl

/-- A burst ends at once, or with the frame that is in attempt (R176). -/
theorem State.endBurst_eq (s : State) : s.endBurst
    = { s with burst := if s.burst = .inAttempt ∨ s.burst = .ending then .ending else .stopped } := by
  cases s with
  | mk => cases ‹Burst› <;> rfl

/-- Where at most the survey requests, an ended burst leaves no request (R15, R176). -/
theorem nextRequest_of_ended {b : Burst} (h : ∀ o, s.nextRequest = some o → o = .survey) (hb : b ≠ .due) (n : Time) :
    State.nextRequest { s with now := n, burst := b } = none := by
  have hbeacon (r : Millis) : s.beacon ≠ .due r := fun hr => by cases h _ (State.nextRequest_beacon hr)
  have hhush : ¬(s.hushQueue ≠ [] ∧ s.hushHead = .standing) := fun ⟨hq, hhead⟩ => by
    cases h _ (State.nextRequest_hush hbeacon hq hhead)
  have hready : s.readyHold = none := by
    cases hr : s.readyHold with
    | none => rfl
    | some i => cases h _ (State.nextRequest_hold hbeacon hhush hr)
  exact (State.nextRequest_eq_none_iff _).2 ⟨hbeacon, hhush, s.readyHold_eq_none_iff.1 hready, hb⟩

/-- Given up, the survey's attempt leaves an IDLE transmitter and a burst at rest (R176). -/
theorem stopSurvey_assessing {a : Attempt} (ha : s.tx = some a) (ho : a.owner = .survey) (hp : a.phase = .assessing) :
    (s.advance t).cancelSurvey.endBurst = { s with now := max s.now t, tx := none, burst := .stopped } := by
  rw [State.cancelSurvey_assessing (s := s.advance t) ha ho hp, State.endBurst_eq]
  rfl

/-- With no survey frame in ASSESSING the burst's state alone changes (R176). -/
theorem stopSurvey_other (h : ∀ a, s.tx = some a → a.owner = .survey → a.phase ≠ .assessing) :
    (s.advance t).cancelSurvey.endBurst = { s with
      now := max s.now t, burst := if s.burst = .inAttempt ∨ s.burst = .ending then .ending else .stopped } := by
  rw [State.cancelSurvey_other (s := s.advance t) h, State.endBurst_eq]
  rfl

/-- The survey's attempt given up where nothing else may be granted. -/
theorem finish_stopSurvey_assessing {a : Attempt} (hs : s.settle = s) (hlaw : OwnerLaw s) (ha : s.tx = some a)
    (ho : a.owner = .survey) (hp : a.phase = .assessing)
    (h : s.station = .silent ∨ s.nextRequest = none ∨ s.nextRequest = some .survey
      ∨ ∃ a, s.tx = some a ∧ (a.owner ≠ .survey ∨ a.phase ≠ .assessing)) :
    (s.advance t).cancelSurvey.endBurst.finish = { s with now := max s.now t, tx := none, burst := .stopped } := by
  obtain ⟨-, -, -, hsurvey, -⟩ := hlaw
  have hin : s.burst = .inAttempt ∨ s.burst = .ending := hsurvey.2 (by simp [ha, ho])
  rw [stopSurvey_assessing ha ho hp]
  refine State.finish_eq_self ?_ hs ⟨rfl, rfl, rfl, rfl, rfl, rfl, rfl, rfl⟩
  rcases h with hsilent | hnone | hreq | ⟨b, hb, hother⟩
  · exact quiet_of_not_running (by simp [hsilent])
  · exact quiet_of_none (nextRequest_of_ended (by simp [hnone]) (by simp) (max s.now t))
  · have hdue : s.burst = .due := State.nextRequest_stands hreq
    simp [hdue] at hin
  · rw [ha, Option.some.injEq] at hb
    subst hb
    exact absurd hother (by simp [ho, hp])

/-- The burst ended where nothing else may be granted. -/
theorem finish_stopSurvey_other (hs : s.settle = s)
    (hphase : ∀ a, s.tx = some a → a.owner = .survey → a.phase ≠ .assessing)
    (h : s.station = .silent ∨ s.nextRequest = none ∨ s.nextRequest = some .survey
      ∨ ∃ a, s.tx = some a ∧ (a.owner ≠ .survey ∨ a.phase ≠ .assessing)) :
    (s.advance t).cancelSurvey.endBurst.finish = { s with
      now := max s.now t, burst := if s.burst = .inAttempt ∨ s.burst = .ending then .ending else .stopped } := by
  rw [stopSurvey_other hphase]
  have hended : (if s.burst = .inAttempt ∨ s.burst = .ending then Burst.ending else .stopped) ≠ .due := by
    split <;> simp
  refine State.finish_eq_self ?_ hs ⟨rfl, rfl, rfl, rfl, rfl, rfl, rfl, rfl⟩
  rcases h with hsilent | hnone | hreq | ⟨b, hb, -⟩
  · exact quiet_of_not_running (by simp [hsilent])
  · exact quiet_of_none (nextRequest_of_ended (by simp [hnone]) hended (max s.now t))
  · exact quiet_of_none (nextRequest_of_ended (by simp [hreq]) hended (max s.now t))
  · exact quiet_of_tx hb

/-- One grant, or none, writes the transmitter and the records of beacon, HUSH and hold entries alone, where no survey
frame is due (R15). -/
theorem finish_granted_frame {w : State} (hs : s.settle = s) (hw : SameSources s w) (hrx : w.rx.busy = false)
    (hburst : w.burst ≠ .due) : w.finish = { w with
      tx := w.finish.tx, beacon := w.finish.beacon, hushHead := w.finish.hushHead, hold := w.finish.hold } := by
  rcases finish_cases hrx with h | ⟨o, ho, h⟩
  · rw [h, State.settle_of_sources hs hw]
  · have hne : o ≠ .survey := by
      rintro rfl
      exact hburst (State.nextRequest_stands ho)
    have hkept := (w.granted_others o).2.2.1 hne
    rw [h, State.settle_of_sources hs (hw.granted o)]
    conv_lhs => rw [State.granted_frame, hkept]

end StopSurvey

/-- Settles O50: SURVEY by the burst's state; STOP_SURVEY by the phase of the survey's attempt. -/
theorem surveyBurstsStartAndStop : Obligations.SurveyBurstsStartAndStop := by
  refine fun t count interval rate fill s => ⟨exec_survey_bad, fun hrun hb => ?_, fun hstation hs hlaw h => ?_,
    fun hrun hs a ha ho hp => ?_⟩
  · exact ⟨_, exec_survey_start hrun hb, rfl, rfl, finish_survey_start hrun _ _⟩
  · refine ⟨_, exec_stopSurvey hstation, ?_⟩
    by_cases hphase : ∀ a, s.tx = some a → a.owner = .survey → a.phase ≠ .assessing
    · rw [finish_stopSurvey_other hs hphase h]
      exact ⟨rfl, fun a ha ho hp => absurd hp (hphase a ha ho), fun _ => ⟨rfl, rfl⟩⟩
    · push Not at hphase
      obtain ⟨a, ha, ho, hp⟩ := hphase
      rw [finish_stopSurvey_assessing hs hlaw ha ho hp h]
      exact ⟨rfl, fun _ _ _ _ => ⟨rfl, rfl⟩, fun hother => absurd hp (hother a ha ho)⟩
  · let w : State := { s with now := max s.now t, tx := none, burst := .stopped }
    have hburst : w.finish.burst = .stopped := (State.arbitrateUpTo_others 19 w).2.2 (by simp [w])
    refine ⟨w.finish.ok, ?_, rfl, hburst, ?_, fun hidle => ?_, fun hengaged => ?_⟩
    · rw [exec_stopSurvey (.inl hrun), stopSurvey_assessing ha ho hp]
    · have : w.finish.burstRec = w.burstRec := by simp
      exact this
    · have hrx : w.rx.busy = false := busy_of_not_engaged hidle
      have hsame : SameRequests { s with burst := .stopped } w :=
        ⟨fun _ => .rfl, .rfl, fun _ _ _ => .rfl, .rfl, rfl, rfl, rfl⟩
      refine ⟨finish_grantedInOrder hsame hrx hrun rfl, ?_⟩
      have hframe := finish_granted_frame (w := w) hs ⟨rfl, rfl, rfl, rfl, rfl, rfl, rfl, rfl⟩ hrx (by simp [w])
      exact congrArg State.ok hframe
    · exact State.arbitrate_tx_of_busy (s := w) (busy_of_engaged hengaged) rfl

end Sys2Proof.Machine
end

section
namespace Sys2Proof.Machine

/-! ### Statuses told by the neighbour table (R38, R48, R168, R169) -/

theorem bitIf_getLsbD (c : Bool) {i : Nat} (hi : i < 12) (b : Nat) :
    (bitIf c i).getLsbD b = true ↔ c = true ∧ b = i := by
  cases c <;> simp [bitIf, BitVec.getLsbD_twoPow, hi, eq_comm]

/-- A level source follows its condition and, latched, keeps what it had; a transition source keeps what it had; a
masked source is at 0 (R168 to R170). -/
theorem State.settle_status (s : State) (b : Nat) : s.settle.statuses.getLsbD b = true ↔ s.masks.getLsbD b = true
    ∧ (((levelWord s.modes).getLsbD b = false ∨ s.latches.getLsbD b = true) ∧ s.statuses.getLsbD b = true
      ∨ (levelWord s.modes).getLsbD b = true ∧ s.conditionWord.getLsbD b = true) := by
  have hlt (h : s.statuses.getLsbD b = true) : b < 12 := BitVec.lt_of_getLsbD h
  simp only [State.settle, BitVec.getLsbD_and, BitVec.getLsbD_or, BitVec.getLsbD_not, Bool.and_eq_true,
    Bool.or_eq_true, Bool.not_eq_true', decide_eq_true_eq]
  tauto

/-- REACH is a level source in mode LEVEL (R162). -/
theorem levelWord_reach (modes : BitVec 8) (a : Fin 4) :
    (levelWord modes).getLsbD (3 + a.1) = true ↔ triggerMode modes a = 0 := by
  simp only [levelWord, BitVec.getLsbD_or, Bool.or_eq_true, bitIf_getLsbD, Nat.reduceLT]
  fin_cases a <;> simp

/-- The condition of REACH: the rank at 4095 (R49). -/
theorem State.conditionWord_reach (s : State) (a : Fin 4) :
    s.conditionWord.getLsbD (3 + a.1) = true ↔ s.ranks[a] = 4095 := by
  simp only [State.conditionWord, BitVec.getLsbD_or, Bool.or_eq_true, bitIf_getLsbD, Nat.reduceLT, State.unreachable]
  fin_cases a <;> simp

/-- A transition reported sets the status of its unmasked source (R168). -/
theorem State.report_status (s : State) (src : Source) (b : Nat) : (s.report src).statuses.getLsbD b = true ↔
    s.statuses.getLsbD b = true ∨ s.masks.getLsbD b = true ∧ b = src.bit := by
  have hbit : src.bit < 12 := by cases src <;> decide
  simp [State.report, bitIf_getLsbD, hbit]

/-- A change of rank that REACH is told of: a loss in mode LOSS or EITHER, a gain in mode GAIN or EITHER (R48, R162). -/
def ReachTold (modes : BitVec 8) (a : Fin 4) (old new : Rank) : Prop :=
  (triggerMode modes a = 1 ∨ triggerMode modes a = 3) ∧ old ≠ 4095 ∧ new = 4095
    ∨ (triggerMode modes a = 2 ∨ triggerMode modes a = 3) ∧ old = 4095 ∧ new ≠ 4095

theorem not_reachTold_same (modes : BitVec 8) (a : Fin 4) (r : Rank) : ¬ReachTold modes a r r := by
  rintro (⟨-, hold, hnew⟩ | ⟨-, hold, hnew⟩)
  · exact hold hnew
  · exact hnew hold

/-- A loss or gain reported sets the status of an unmasked REACH source whose mode takes it (R162, R168). -/
theorem State.reportReach_status (s : State) (a : Fin 4) (gain : Bool) (b : Nat) :
    (s.reportReach a gain).statuses.getLsbD b = true ↔ s.statuses.getLsbD b = true
      ∨ s.masks.getLsbD b = true ∧ b = 3 + a.1 ∧ (triggerMode s.modes a = 3
        ∨ triggerMode s.modes a = if gain then 2 else 1) := by
  have hlow : ∀ m : BitVec 2, m.getLsbD 0 = true ↔ m = 3 ∨ m = 1 := by decide
  have hhigh : ∀ m : BitVec 2, m.getLsbD 1 = true ↔ m = 3 ∨ m = 2 := by decide
  have ha : 3 + a.1 < 12 := by omega
  cases gain <;> simp only [State.reportReach, BitVec.getLsbD_or, BitVec.getLsbD_and, Bool.or_eq_true,
    Bool.and_eq_true, bitIf_getLsbD _ ha, Bool.false_eq_true, if_true, if_false, hlow, hhigh, and_comm]

/-- REACH is told where the rank crosses 4095 (R48). -/
theorem State.reportRankChange_status (s : State) (a : Fin 4) (old new : Rank) (b : Nat) :
    (s.reportRankChange a old new).statuses.getLsbD b = true ↔ s.statuses.getLsbD b = true
      ∨ s.masks.getLsbD b = true ∧ b = 3 + a.1 ∧ ReachTold s.modes a old new := by
  unfold State.reportRankChange ReachTold
  split
  · next hloss => simp [State.reportReach_status, hloss, or_comm]
  · split
    · next hgain => simp [State.reportReach_status, hgain, or_comm]
    · next hloss hgain =>
      have hloss' : ¬(old ≠ 4095 ∧ new = 4095) := hloss
      have hgain' : ¬(old = 4095 ∧ new ≠ 4095) := hgain
      tauto

theorem State.foldl_reportRankChange_status (old new : Vector Rank 4) (b : Nat) : ∀ (l : List (Fin 4)) (s : State),
    (l.foldl (fun st a => st.reportRankChange a old[a] new[a]) s).statuses.getLsbD b = true ↔
      s.statuses.getLsbD b = true
        ∨ s.masks.getLsbD b = true ∧ ∃ a ∈ l, b = 3 + a.1 ∧ ReachTold s.modes a old[a] new[a] := by
  intro l
  induction l with
  | nil => simp
  | cons a l ih =>
    intro s
    rw [List.foldl_cons, ih, State.reportRankChange_status]
    simp only [State.reportRankChange_frame, List.exists_mem_cons_iff]
    tauto

/-- A recompute forms the ranks and may tell REACH (R45). -/
theorem State.recompute_eq (s : State) :
    s.recompute = { s with ranks := s.formedRanks, statuses := s.recompute.statuses } := by
  unfold State.recompute
  dsimp only
  rw [State.foldl_report_frame]

/-- A recompute tells REACH of the ranks that cross 4095 (R48). -/
theorem State.recompute_status (s : State) (b : Nat) : s.recompute.statuses.getLsbD b = true ↔
    s.statuses.getLsbD b = true ∨ s.masks.getLsbD b = true
      ∧ ∃ a : Fin 4, b = 3 + a.1 ∧ ReachTold s.modes a s.ranks[a] s.formedRanks[a] := by
  have := State.foldl_reportRankChange_status s.ranks s.formedRanks b (List.finRange 4) s
  simp only [List.mem_finRange, true_and] at this
  exact this

/-- From `s` to `v` the event settings stand, NEIGHBOURS is reported where `told` holds, and REACH where a rank has
crossed 4095. -/
structure TableReports (s v : State) (told : Prop) : Prop where
  masks : v.masks = s.masks
  modes : v.modes = s.modes
  latches : v.latches = s.latches
  statuses : ∀ b, v.statuses.getLsbD b = true ↔ s.statuses.getLsbD b = true ∨ s.masks.getLsbD b = true
    ∧ (b = 7 ∧ told ∨ ∃ a : Fin 4, b = 3 + a.1 ∧ ReachTold s.modes a s.ranks[a] v.ranks[a])

theorem TableReports.of_same {s v : State} (hmasks : v.masks = s.masks) (hmodes : v.modes = s.modes)
    (hlatches : v.latches = s.latches) (hstatuses : v.statuses = s.statuses) (hranks : v.ranks = s.ranks) :
    TableReports s v False where
  masks := hmasks
  modes := hmodes
  latches := hlatches
  statuses b := by simp [hstatuses, hranks, not_reachTold_same]

/-- What the reports of an event of the table leave in the statuses once the event unit is done (R38, R48, R169). -/
theorem TableReports.tableTold {s v : State} {told : Prop} (h : TableReports s v told) :
    Claim.TableTold s v.settle told := by
  have hreach (a : Fin 4) : v.statuses.getLsbD (3 + a.1) = true ↔ s.statuses.getLsbD (3 + a.1) = true
      ∨ s.masks.getLsbD (3 + a.1) = true ∧ ReachTold s.modes a s.ranks[a] v.ranks[a] := by
    have ha : 3 + a.1 ≠ 7 := by omega
    simp only [h.statuses, ha, false_and, false_or, Nat.add_left_cancel_iff, Fin.val_inj, exists_eq_left']
  refine ⟨?_, fun a => ⟨fun hlevel => ?_, fun htransition => ?_⟩⟩
  · have h7 : ∀ a : Fin 4, 7 ≠ 3 + a.1 := fun a => by omega
    simp only [Claim.Told, v.settle_transition (le_refl 7) (by decide), h.masks, Bool.and_eq_true, h.statuses, h7,
      true_and, false_and, exists_const, or_false]
    tauto
  · have hlevelWord : (levelWord v.modes).getLsbD (3 + a.1) = true := by rw [h.modes, levelWord_reach, hlevel]
    have hquiet : ¬ReachTold s.modes a s.ranks[a] v.ranks[a] := by
      rw [ReachTold, hlevel]
      simp
    rw [State.settle_status, hlevelWord, State.conditionWord_reach, hreach, h.masks, h.latches, State.settle_ranks]
    simp only [hquiet]
    simp [or_comm]
  · have hlevelWord : (levelWord v.modes).getLsbD (3 + a.1) = false := by
      rw [← Bool.not_eq_true, h.modes, levelWord_reach]
      exact htransition
    rw [Claim.Told, State.settle_status, hlevelWord, hreach, h.masks]
    simp only [ReachTold, State.settle_ranks]
    tauto

/-! ### One slot of the table written, and the refresh after it (R37, R38, R45) -/

/-- From `s` to `v` slot `i` of the table is written `e`, NEIGHBOURS is reported where `told` holds, and nothing else
has changed. -/
def SlotWritten (s v : State) (i : Fin 32) (e : Option Neighbour) (told : Prop) : Prop :=
  ∃ statuses : BitVec 12, v = { s with table := setAt s.table i e, statuses := statuses }
    ∧ ∀ b, statuses.getLsbD b = true ↔ s.statuses.getLsbD b = true ∨ s.masks.getLsbD b = true ∧ b = 7 ∧ told

/-- From `s` to `u` slot `i` of the table is written `e`, NEIGHBOURS is reported where `told` holds, and the ranks are
formed again (R37, R45). -/
def SlotRefreshed (s u : State) (i : Fin 32) (e : Option Neighbour) (told : Prop) : Prop :=
  ∃ v, SlotWritten s v i e told ∧ u = v.recompute

section Written

variable {s v u : State} {i : Fin 32} {e : Option Neighbour} {told told' : Prop}

theorem SlotWritten.setNeighbour (s : State) (i : Fin 32) (e : Option Neighbour) :
    SlotWritten s (s.setNeighbour i e) i e False :=
  ⟨s.statuses, rfl, fun b => by simp⟩

/-- The slot is written again: the later entry stands. -/
theorem SlotWritten.again (h : SlotWritten s v i e told) (e' : Option Neighbour) :
    SlotWritten s (v.setNeighbour i e') i e' told := by
  obtain ⟨statuses, rfl, hstatuses⟩ := h
  exact ⟨statuses, by simp only [State.setNeighbour, setAt_setAt], hstatuses⟩

/-- NEIGHBOURS is reported where `c` holds (R38). -/
theorem SlotWritten.reportIf (h : SlotWritten s v i e told) (c : Prop) [Decidable c] :
    SlotWritten s (if c then v.report .neighbours else v) i e (told ∨ c) := by
  obtain ⟨statuses, rfl, hstatuses⟩ := h
  split
  · next hc =>
    refine ⟨_, rfl, fun b => (State.report_status _ .neighbours b).trans ?_⟩
    rw [hstatuses, Source.bit]
    tauto
  · next hc => exact ⟨statuses, rfl, fun b => by rw [hstatuses, or_iff_left hc]⟩

/-- An entry removed; NEIGHBOURS is told of an UP or SILENT one (R34). -/
theorem SlotWritten.removeNeighbour {n : Neighbour} (hn : s.table[i] = some n) :
    SlotWritten s (s.removeNeighbour i) i none (n.standing ≠ .candidate) := by
  have h := (SlotWritten.setNeighbour s i none).reportIf (n.standing ≠ .candidate)
  rw [false_or, ite_not] at h
  rwa [State.removeNeighbour, hn]

/-- The refresh after a write. -/
theorem SlotWritten.refreshed (h : SlotWritten s v i e told) (htold : told ↔ told') :
    SlotRefreshed s v.recompute i e told' := ⟨v, htold.eq ▸ h, rfl⟩

/-- The reports of a written slot are those of NEIGHBOURS, and of REACH from the refresh (R38, R48). -/
theorem SlotWritten.reports (h : SlotWritten s v i e told) : TableReports s v.recompute told := by
  have hranks : v.recompute.ranks = v.formedRanks := by rw [State.recompute_eq]
  obtain ⟨statuses, rfl, hstatuses⟩ := h
  refine ⟨by simp, by simp, by simp, fun b => ?_⟩
  rw [State.recompute_status, hstatuses, hranks]
  tauto

/-- What a written slot and the refresh after it leave once the event unit is done. -/
theorem SlotRefreshed.settled (h : SlotRefreshed s u i e told) :
    u.settle.table[i] = e ∧ (∀ j : Fin 32, j ≠ i → u.settle.table[j] = s.table[j])
      ∧ u.settle.ranks = u.settle.formedRanks ∧ Claim.TableTold s u.settle told
      ∧ u.settle = { s with table := u.settle.table, ranks := u.settle.ranks, statuses := u.settle.statuses } := by
  obtain ⟨v, hv, rfl⟩ := h
  have hreports := hv.reports.tableTold
  obtain ⟨statuses, rfl, -⟩ := hv
  rw [State.recompute_eq] at hreports ⊢
  exact ⟨setAt_same .., fun j hj => setAt_other _ _ hj.symm, rfl, hreports, rfl⟩

end Written

/-! ### Slots searched (R21, R26, R27) -/

/-- The lowest place that fits is found. -/
theorem find?_finRange_eq_some {n : Nat} {p : Fin n → Bool} {i : Fin n} (hi : p i = true)
    (below : ∀ j < i, p j = false) : (List.finRange n).find? p = some i := by
  rw [← Fin.find?_eq_find?_finRange, Fin.find?_eq_some_iff]
  exact ⟨hi, below⟩

/-- The only entry of an address is found (R21). -/
theorem State.findNeighbour_eq_some {s : State} {i : Fin 32} {n : Neighbour} (hn : s.table[i] = some n)
    (hother : ∀ (j : Fin 32) (m : Neighbour), j ≠ i → s.table[j] = some m → m.address ≠ n.address) :
    s.findNeighbour n.address = some i := by
  refine find?_finRange_eq_some (by simp [hn]) fun j hj => ?_
  rw [Option.any_eq_false]
  exact fun m hm => decide_eq_false (hother j m hj.ne hm)

/-- An address that no entry has is not found (R26). -/
theorem State.findNeighbour_eq_none {s : State} {a : Address}
    (h : ∀ (j : Fin 32) (n : Neighbour), s.table[j] = some n → n.address ≠ a) : s.findNeighbour a = none := by
  refine List.find?_eq_none.2 fun j _ => ?_
  rw [Bool.not_eq_true, Option.any_eq_false]
  exact fun n hn => decide_eq_false (h j n hn)

/-- The lowest empty slot (R26). -/
theorem State.emptySlot_eq_some {s : State} {i : Fin 32} (hi : s.table[i] = none)
    (below : ∀ j < i, s.table[j].isSome) : s.emptySlot = some i :=
  find?_finRange_eq_some (by simp [hi]) fun j hj => by simpa [Option.isSome_iff_ne_none] using below j hj

theorem State.emptySlot_eq_none {s : State} (h : ∀ j : Fin 32, s.table[j].isSome) : s.emptySlot = none :=
  List.find?_eq_none.2 fun j _ => by simpa [Option.isSome_iff_ne_none] using h j

/-- The entries a newcomer may replace are those not UP (R27). -/
theorem State.mem_replaceable (s : State) (j : Fin 32) :
    j ∈ (List.finRange 32).filter (fun i => s.table[i].any fun n => n.standing ≠ .up) ↔
      ∃ n, s.table[j] = some n ∧ n.standing ≠ .up := by
  simp [Option.any_eq_true]

/-- The victim: of the entries not UP the one of lowest LQ, the lowest slot between equal ones (R27). -/
theorem State.victim_eq_some {s : State} {i : Fin 32} {n : Neighbour} (hn : s.table[i] = some n)
    (hup : n.standing ≠ .up) (least : ∀ (j : Fin 32) (m : Neighbour), s.table[j] = some m → m.standing ≠ .up →
      linkQuality n.history ≤ linkQuality m.history ∧ (j < i → linkQuality n.history < linkQuality m.history)) :
    s.victim = some i := by
  refine leastBy_eq_some ((List.pairwise_lt_finRange 32).filter _) ((s.mem_replaceable i).2 ⟨n, hn, hup⟩) ?_
  intro j hj
  obtain ⟨m, hm, hmup⟩ := (s.mem_replaceable j).1 hj
  obtain ⟨hle, hlt⟩ := least j m hm hmup
  simp only [hn, hm]
  rcases lt_or_ge j i with hji | hij
  · exact .inl (hlt hji)
  · exact hle.lt_or_eq.imp_right fun heq => ⟨heq, hij⟩

/-- Where every entry is UP there is no victim (R28). -/
theorem State.victim_eq_none {s : State} (h : ∀ j : Fin 32, ∃ n, s.table[j] = some n ∧ n.standing = .up) :
    s.victim = none := by
  rw [State.victim, leastBy_eq_none_iff, List.eq_nil_iff_forall_not_mem]
  intro j hj
  obtain ⟨n, hn, hup⟩ := h j
  obtain ⟨m, hm, hnot⟩ := (s.mem_replaceable j).1 hj
  rw [hn, Option.some.injEq] at hm
  exact hnot (hm ▸ hup)

/-! ### What a beacon and a due timer do to a slot (R26 to R34) -/

/-- Marks added one after another stand before the history (R23). -/
theorem take_addMissed (k : Nat) : ∀ h : List Mark,
    (addMissed k h).take 15 = (List.replicate k Mark.missed ++ h).take 15 := by
  induction k with
  | zero => simp [addMissed]
  | succ k ih =>
    intro h
    have hmin : min (15 - k) 16 = 15 - k := by omega
    rw [addMissed, ih, addMark, List.replicate_succ', List.append_assoc, List.singleton_append, List.take_append,
      List.take_append, List.take_take, List.length_replicate, hmin]

/-- A beacon leaves a CANDIDATE whose streak is short, and brings any other entry UP (R31). -/
theorem Neighbour.promoted_eq (n : Neighbour) (upAfter : Nat) : n.promoted upAfter = { n with
    standing := if n.standing = .candidate ∧ n.heardStreak < upAfter then .candidate else .up } := by
  obtain ⟨address, standing, history, heardStreak⟩ := n
  cases standing with
  | up => rfl
  | silent => rfl
  | candidate =>
    rcases Nat.lt_or_ge heardStreak upAfter with hshort | hlong
    · simp [Neighbour.promoted, hshort]
    · simp [Neighbour.promoted, hlong]

/-- The entry of a known sender after its beacon (R30, R31). -/
def Neighbour.afterBeacon (n : Neighbour) (b : BeaconHeader) (margin upAfter : Nat) (nowMs : Millis) : Neighbour :=
  if b.serial = n.serial then n.repeated b margin
  else (n.heardAgain (b.serial - n.serial).toNat b margin nowMs).promoted upAfter

theorem Neighbour.afterBeacon_repeated {n : Neighbour} {b : BeaconHeader} (h : b.serial = n.serial)
    (margin upAfter : Nat) (nowMs : Millis) : n.afterBeacon b margin upAfter nowMs = { n with
      ranks := #v[b.rank0, b.rank1, b.rank2, b.rank3], marginAvg := (3 * n.marginAvg + margin) / 4 } :=
  if_pos h

theorem Neighbour.afterBeacon_gap {n : Neighbour} {b : BeaconHeader} (h : b.serial ≠ n.serial)
    (margin upAfter : Nat) (nowMs : Millis) : n.afterBeacon b margin upAfter nowMs = { n with
      history := .heard :: (List.replicate ((b.serial - n.serial).toNat - 1 - n.missesNoted) Mark.missed
        ++ n.history).take 15
      missesNoted := 0
      missStreak := 0
      heardStreak := min 7 (n.heardStreak + 1)
      marginAvg := (3 * n.marginAvg + margin) / 4
      ranks := #v[b.rank0, b.rank1, b.rank2, b.rank3]
      period := max 2 (min 60 b.period.toNat)
      serial := b.serial
      due := nowMs + 1500 * max 2 (min 60 b.period.toNat)
      standing := if n.standing = .candidate ∧ min 7 (n.heardStreak + 1) < upAfter then .candidate else .up } := by
  rw [Neighbour.afterBeacon, if_neg h, ← take_addMissed, Neighbour.promoted_eq]
  rfl

/-- Of the standings but UP, the one that is not CANDIDATE is SILENT (R31, R33). -/
theorem Standing.ne_candidate_iff {st : Standing} (h : st ≠ .up) : st ≠ .candidate ↔ st = .silent := by
  cases st with
  | up => exact absurd rfl h
  | candidate => simp
  | silent => simp

section Events

variable {s v : State} {i : Fin 32} {n : Neighbour} {b : BeaconHeader}

/-- The beacon of a known sender changes nothing at all, or rewrites its slot (R30, R31, R37, R38). -/
theorem State.knownBeacon_cases (s : State) (i : Fin 32) (n : Neighbour) (b : BeaconHeader) (margin : Nat) :
    let n' := n.afterBeacon b margin s.cfg.upAfter s.nowMs
    (s.knownBeacon i n b margin = s ∧ n' = n)
      ∨ SlotRefreshed s (s.knownBeacon i n b margin) i (some n') (n.standing ≠ .up ∧ n'.standing = .up) := by
  have hgap : (b.serial - n.serial).toNat = 0 ↔ b.serial = n.serial := by
    rw [← BitVec.toNat_inj, BitVec.toNat_sub]
    omega
  rw [State.knownBeacon]
  dsimp only
  by_cases hserial : b.serial = n.serial
  · rw [if_pos (hgap.2 hserial), Neighbour.afterBeacon, if_pos hserial]
    split
    · next hsame => exact .inl ⟨rfl, hsame⟩
    · exact .inr ((SlotWritten.setNeighbour s i _).refreshed ⟨False.elim, fun h => h.1 h.2⟩)
  · rw [if_neg (hgap.not.2 hserial), Neighbour.afterBeacon, if_neg hserial]
    exact .inr (((SlotWritten.setNeighbour s i _).reportIf _).refreshed (by rw [false_or]))

/-- An entry is made UP where UP_AFTER is 1 (R26). -/
theorem State.newNeighbour_up (s : State) (b : BeaconHeader) (margin : Nat) :
    (s.newNeighbour b margin).standing = .up ↔ s.cfg.upAfter = 1 := by
  simp [State.newNeighbour]

/-- An entry seated where a slot is written reports NEIGHBOURS if made UP (R26, R38). -/
theorem SlotWritten.seated {told : Prop} {margin : Nat}
    (h : SlotWritten s (v.setNeighbour i (some (v.newNeighbour b margin))) i (some (v.newNeighbour b margin)) told)
    (hcfg : v.cfg = s.cfg) :
    SlotRefreshed s (v.seatNeighbour i b margin) i (some (v.newNeighbour b margin)) (s.cfg.upAfter = 1 ∨ told) := by
  refine (h.reportIf ((v.newNeighbour b margin).standing = .up)).refreshed ?_
  rw [State.newNeighbour_up, hcfg, or_comm]

/-- An unknown sender takes the lowest empty slot (R26). -/
theorem State.unknownBeacon_empty (hi : s.table[i] = none) (below : ∀ j < i, s.table[j].isSome) (b : BeaconHeader)
    (margin : Nat) : SlotRefreshed s (s.unknownBeacon b margin) i (some (s.newNeighbour b margin))
      (s.cfg.upAfter = 1 ∨ ∃ n, s.table[i] = some n ∧ n.standing = .silent) := by
  have h := (SlotWritten.setNeighbour s i (some (s.newNeighbour b margin))).seated rfl
  simpa only [State.unknownBeacon, State.emptySlot_eq_some hi below, hi, reduceCtorEq, false_and, exists_false] using h

/-- In a full table an unknown sender takes the victim's slot (R27). -/
theorem State.unknownBeacon_victim (hfull : ∀ j : Fin 32, s.table[j].isSome) (hvictim : s.victim = some i)
    (hn : s.table[i] = some n) (hup : n.standing ≠ .up) (b : BeaconHeader) (margin : Nat) :
    SlotRefreshed s (s.unknownBeacon b margin) i (some (s.newNeighbour b margin))
      (s.cfg.upAfter = 1 ∨ ∃ n, s.table[i] = some n ∧ n.standing = .silent) := by
  have hcfg : (s.removeNeighbour i).cfg = s.cfg := by simp [State.cfg]
  have hnew : (s.removeNeighbour i).newNeighbour b margin = s.newNeighbour b margin := by
    simp [State.newNeighbour, State.nowMs, hcfg]
  have hsilent : (∃ m, s.table[i] = some m ∧ m.standing = .silent) ↔ n.standing ≠ .candidate := by
    simp [hn, Standing.ne_candidate_iff hup]
  have h := ((SlotWritten.removeNeighbour hn).again (some ((s.removeNeighbour i).newNeighbour b margin))).seated hcfg
  rw [hnew, ← hsilent] at h
  simpa only [State.unknownBeacon, State.emptySlot_eq_none hfull, hvictim] using h

/-- Where every entry is UP an unknown sender is refused and counted (R28). -/
theorem State.unknownBeacon_refused (h : ∀ j : Fin 32, ∃ n, s.table[j] = some n ∧ n.standing = .up)
    (b : BeaconHeader) (margin : Nat) : s.unknownBeacon b margin = s.count Stats.addRefused := by
  have hfull : ∀ j : Fin 32, s.table[j].isSome := fun j => by
    obtain ⟨n, hn, -⟩ := h j
    rw [hn]
    rfl
  rw [State.unknownBeacon, State.emptySlot_eq_none hfull, State.victim_eq_none h]

/-- A due timer's miss rewrites its slot: the entry stays with one more mark, or goes (R33, R34). -/
theorem State.missBeacon_refreshes (hn : s.table[i] = some n) : SlotRefreshed s (s.missBeacon i n) i
    (if n.standing ≠ .up ∧ s.cfg.downAfter ≤ min 15 (n.missStreak + 1) then none else some (n.missedOne s.nowMs))
    (n.standing = .silent ∧ s.cfg.downAfter ≤ min 15 (n.missStreak + 1)) := by
  have hstreak : (n.missedOne s.nowMs).missStreak = min 15 (n.missStreak + 1) := rfl
  rw [State.missBeacon, hstreak]
  split
  · next hgone =>
    obtain ⟨hup, hlimit⟩ := hgone
    exact (SlotWritten.removeNeighbour hn).refreshed (by rw [Standing.ne_candidate_iff hup, and_iff_left hlimit])
  · next hstays =>
    refine (SlotWritten.setNeighbour s i _).refreshed
      ⟨False.elim, fun ⟨hsilent, hlimit⟩ => hstays ⟨?_, hlimit⟩⟩
    rw [hsilent]
    decide

end Events

/-! ### The rows of a beacon and of a due timer -/

/-- A good frame from another station is counted and handed off (R12, R13). -/
theorem State.receive_good {s : State} {bad : Bool} {sender : Address} (hrx : s.rx.isReceiving = true)
    (hgood : bad = false) (hother : sender ≠ s.own) (handOff : State → State) :
    s.receive bad sender handOff = (handOff s.takeGood).finish := by
  rw [State.receive, if_pos hrx, hgood, if_neg (by simp), if_neg hother]

/-- The table raises no request (R15). -/
theorem quiet_takeBeacon {s : State} (h : Claim.Quiet s) (b : BeaconHeader) (margin : Nat) :
    Claim.Quiet (s.takeBeacon b margin) := by
  intro hrun htx
  have hnone : s.nextRequest = none := h (by simpa using hrun) (by simpa using htx)
  exact State.nextRequest_none_of_fewer hnone (by simp) (by simp) (by simp +contextual) (by simp)

/-- A good beacon from another station, where no request may be granted, is taken by the table alone (R13). -/
theorem exec_beaconReceived_good {t : Time} {rate : Rate} {b : BeaconHeader} {check : BitVec 16} {levels : List Int}
    {s : State} (hrx : s.rx = .receiving rate) (hgood : beaconBad b check levels = false)
    (hother : b.sender ≠ s.own) (hquiet : Claim.Quiet s) : exec (.beaconReceived t b check levels) s
      = .next ((s.advance t).takeGood.takeBeacon b (marginOf levels)).settle := by
  have hrx' : (s.advance t).rx.isReceiving = true := by rw [State.advance_rx, hrx]; rfl
  have hquiet' : Claim.Quiet (s.advance t).takeGood := hquiet
  refine congrArg _ ((State.receive_good hrx' hgood hother _).trans ?_)
  exact State.finish_of_quiet (quiet_takeBeacon hquiet' b _)

/-- Settles O11: the slot that the search finds is written, or with every entry UP none. -/
theorem unknownBeaconTakesASlot : Obligations.UnknownBeaconTakesASlot := by
  intro t rate b check levels s hrx hgood hother hquiet hunknown
  let s' : State := (s.advance t).takeGood
  have hexec : exec (.beaconReceived t b check levels) s = .next (s'.unknownBeacon b (marginOf levels)).settle := by
    have hnone : s'.findNeighbour b.sender = none := State.findNeighbour_eq_none hunknown
    rw [exec_beaconReceived_good hrx hgood hother hquiet, State.takeBeacon, hnone]
  refine ⟨fun i hslot => ?_, fun hup => ?_⟩
  · have h : SlotRefreshed s' (s'.unknownBeacon b (marginOf levels)) i (some (s'.newNeighbour b (marginOf levels)))
        (s.cfg.upAfter = 1 ∨ ∃ n, s.table[i] = some n ∧ n.standing = .silent) := by
      rcases hslot with ⟨hi, below⟩ | ⟨hfull, n, hn, hup, least⟩
      · exact State.unknownBeacon_empty (s := s') hi below b _
      · exact State.unknownBeacon_victim (s := s') hfull (State.victim_eq_some (s := s') hn hup least) hn hup b _
    obtain ⟨hi, hj, hranks, htold, hframe⟩ := h.settled
    exact ⟨_, hexec, hi, hj, hranks, htold, hframe⟩
  · rw [State.unknownBeacon_refused (s := s') hup] at hexec
    have hreports : TableReports s (s'.count Stats.addRefused) False := .of_same rfl rfl rfl rfl rfl
    exact ⟨_, hexec, hreports.tableTold, rfl⟩

/-- Settles O12: the beacon leaves everything as it was, or its sender's slot alone is written. -/
theorem knownBeaconUpdatesItsEntry : Obligations.KnownBeaconUpdatesItsEntry := by
  intro t rate b check levels s i n hrx hgood hother hquiet hn haddress honly
  let s' : State := (s.advance t).takeGood
  have hexec : exec (.beaconReceived t b check levels) s = .next (s'.knownBeacon i n b (marginOf levels)).settle := by
    have hfound : s'.findNeighbour b.sender = some i := by
      rw [← haddress] at honly ⊢
      exact State.findNeighbour_eq_some (s := s') hn honly
    have hn' : s'.table[i] = some n := hn
    rw [exec_beaconReceived_good hrx hgood hother hquiet, State.takeBeacon, hfound]
    dsimp only
    rw [hn']
  have hrepeated (h : b.serial = n.serial) :=
    Neighbour.afterBeacon_repeated h (marginOf levels) s.cfg.upAfter s'.nowMs
  have hgap (h : b.serial ≠ n.serial) := Neighbour.afterBeacon_gap h (marginOf levels) s.cfg.upAfter s'.nowMs
  refine ⟨_, n.afterBeacon b (marginOf levels) s.cfg.upAfter s'.nowMs, hexec, ?_⟩
  rcases s'.knownBeacon_cases i n b (marginOf levels) with ⟨hsame, hentrySame⟩ | h
  · have hentrySame' : n.afterBeacon b (marginOf levels) s.cfg.upAfter s'.nowMs = n := hentrySame
    have hreports : TableReports s s' False := .of_same rfl rfl rfl rfl rfl
    have htold : False ↔ n.standing ≠ .up ∧ n.standing = .up := ⟨False.elim, fun h => h.1 h.2⟩
    rw [hsame]
    refine ⟨by rw [hentrySame']; exact hn, fun _ _ => rfl, fun hlaw => hlaw.2, ?_, rfl, hrepeated, hgap⟩
    rw [hentrySame', ← htold]
    exact hreports.tableTold
  · obtain ⟨hi, hj, hranks, htold, hframe⟩ := h.settled
    exact ⟨hi, hj, fun _ => hranks, htold, hframe, hrepeated, hgap⟩

/-- Settles O14: an expiry that has come rewrites its slot by the miss. -/
theorem dueExpiryMarksAMiss : Obligations.DueExpiryMarksAMiss := by
  intro t i s n hn hdue
  let s' : State := s.advance t
  have hn' : s'.table[i] = some n := hn
  have hdue' : n.due ≤ s'.nowMs := hdue
  have hexec : exec (.neighbourDueExpiry t i) s = .next (s'.missBeacon i n).settle := by
    simp only [exec, execNeighbourDueExpiry]
    rw [hn']
    exact if_pos hdue'
  have hmissed : n.missedOne s'.nowMs = { n with
      history := (.missed :: n.history).take 16
      missesNoted := min 15 (n.missesNoted + 1)
      missStreak := min 15 (n.missStreak + 1)
      heardStreak := 0
      due := max s.now t / 96 + 1000 * n.period
      standing := if n.standing = .candidate then .candidate else .silent } := by
    rw [Neighbour.missedOne]
    cases n.standing <;> rfl
  obtain ⟨hi, hj, hranks, htold, hframe⟩ := (State.missBeacon_refreshes hn').settled
  exact ⟨_, hexec, hranks, htold, hj, hframe, hmissed ▸ hi⟩

end Sys2Proof.Machine
end

section
namespace Sys2Proof.Machine

/-! ### What seen list and arbiter tell: RATE_CHANGE, bit 8, alone (R136, R162, R168) -/

section Statuses

variable {b : Nat}

/-- An echoed outcome reports RATE_CHANGE alone (R136). -/
theorem State.echoedOutcome_status (s : State) (hb : b ≠ 8) :
    s.echoedOutcome.statuses.getLsbD b = s.statuses.getLsbD b := by
  unfold State.echoedOutcome
  split
  · rfl
  · split
    · rw [Bool.eq_iff_iff, State.report_status, Source.bit, or_iff_left fun h => hb h.2]
    · rfl

/-- A hold entry that goes tells of nothing but the echo it drew (R75). -/
theorem State.removeHold_status (s : State) (i : Fin 16) (k : Ending) (hb : b ≠ 8) :
    (s.removeHold i k).statuses.getLsbD b = s.statuses.getLsbD b := by
  unfold State.removeHold
  split
  · rfl
  · dsimp only
    split <;> simp [State.echoedOutcome_status _ hb]

/-- A copy's judgement lets the entry stand or removes it (R86, R87, R89). -/
theorem State.judgeCopy_status (s : State) (i : Fin 16) (r : Option Rank) (copies : Nat) (hb : b ≠ 8) :
    (s.judgeCopy i r copies).statuses.getLsbD b = s.statuses.getLsbD b := by
  unfold State.judgeCopy
  repeat' split
  all_goals simp only [State.removeHold_status _ _ _ hb]

/-- A HUSH's judgement lets the entry stand or removes it (R88, R89). -/
theorem State.judgeHush_status (s : State) (i : Fin 16) (hb : b ≠ 8) :
    (s.judgeHush i).statuses.getLsbD b = s.statuses.getLsbD b := by
  unfold State.judgeHush
  repeat' split
  all_goals simp only [State.removeHold_status _ _ _ hb]

/-- A copy tells of what its judgement tells (R67). -/
theorem State.takeCopy_status (s : State) (e : Seen) (h : CarryHeader) (hb : b ≠ 8) :
    (s.takeCopy e h).statuses.getLsbD b = s.statuses.getLsbD b := by
  unfold State.takeCopy
  dsimp only
  repeat' split
  all_goals simp [State.judgeCopy_status _ _ _ _ hb]

/-- A CARRY tells of what a copy tells; a first copy and a stale own copy tell of nothing (R65, R66). -/
theorem State.takeCarry_status (s : State) (h : CarryHeader) (p : List Byte) (hb : b ≠ 8) :
    (s.takeCarry h p).statuses.getLsbD b = s.statuses.getLsbD b := by
  unfold State.takeCarry
  repeat' split
  all_goals simp [State.takeCopy_status _ _ _ hb]

/-- A HUSH tells of what its judgement tells (R69). -/
theorem State.takeHush_status (s : State) (h : HushHeader) (hb : b ≠ 8) :
    (s.takeHush h).statuses.getLsbD b = s.statuses.getLsbD b := by
  unfold State.takeHush
  repeat' split
  all_goals simp [State.judgeHush_status _ _ hb]

/-- A deferred owner tells of nothing but the entry it drops (R18, R93). -/
theorem State.deferOwner_status (s : State) (o : Owner) (hb : b ≠ 8) :
    (s.deferOwner o).statuses.getLsbD b = s.statuses.getLsbD b := by
  unfold State.deferOwner
  dsimp only
  repeat' split
  all_goals simp [State.removeHold_status _ _ _ hb]

/-- A grant tells of what its deferral at once tells (R15, R16). -/
theorem State.grant_status (s : State) (o : Owner) (hb : b ≠ 8) :
    (s.grant o).statuses.getLsbD b = s.statuses.getLsbD b := by
  have hgranted : (s.granted o).statuses = s.statuses := by rw [State.granted_frame]
  cases hrx : s.rx.busy with
  | false => rw [State.grant_of_idle hrx, hgranted]
  | true => rw [State.grant_of_busy hrx, State.deferOwner_status _ _ hb, hgranted]

/-- The arbiter tells of what its grants tell (R15). -/
theorem State.arbitrate_status (s : State) (hb : b ≠ 8) :
    s.arbitrate.statuses.getLsbD b = s.statuses.getLsbD b :=
  State.arbitrateUpTo_induct (P := fun u => u.statuses.getLsbD b = s.statuses.getLsbD b)
    (fun u o hu _ _ _ => (u.grant_status o hb).trans hu) 19 s rfl

end Statuses

/-- From `v` to `w` the table, the ranks, the record and the event settings stand, and of the statuses all but that of
RATE_CHANGE. -/
structure SparesTable (v w : State) : Prop where
  table : w.table = v.table
  ranks : w.ranks = v.ranks
  record : w.record = v.record
  masks : w.masks = v.masks
  modes : w.modes = v.modes
  latches : w.latches = v.latches
  statuses : ∀ b, b ≠ 8 → w.statuses.getLsbD b = v.statuses.getLsbD b

theorem SparesTable.trans {u v w : State} (h₁ : SparesTable u v) (h₂ : SparesTable v w) : SparesTable u w where
  table := h₂.table.trans h₁.table
  ranks := h₂.ranks.trans h₁.ranks
  record := h₂.record.trans h₁.record
  masks := h₂.masks.trans h₁.masks
  modes := h₂.modes.trans h₁.modes
  latches := h₂.latches.trans h₁.latches
  statuses b hb := (h₂.statuses b hb).trans (h₁.statuses b hb)

theorem SparesTable.takeCarry (s : State) (h : CarryHeader) (p : List Byte) : SparesTable s (s.takeCarry h p) :=
  ⟨by simp, by simp, by simp, by simp, by simp, by simp, fun _ hb => s.takeCarry_status h p hb⟩

theorem SparesTable.takeHush (s : State) (h : HushHeader) : SparesTable s (s.takeHush h) :=
  ⟨by simp, by simp, by simp, by simp, by simp, by simp, fun _ hb => s.takeHush_status h hb⟩

theorem SparesTable.arbitrate (s : State) : SparesTable s s.arbitrate :=
  ⟨by simp, by simp, by simp, by simp, by simp, by simp, fun _ hb => s.arbitrate_status hb⟩

/-- The ranks formed follow the table and the record alone (R44). -/
theorem SparesTable.formedRanks {v w : State} (h : SparesTable v w) : w.formedRanks = v.formedRanks := by
  calc w.formedRanks = State.formedRanks { w with table := v.table, record := v.record } := by
        rw [← h.table, ← h.record]
    _ = v.formedRanks := rfl

/-- The event unit judges each source by its own status (R169). -/
theorem State.settle_status_local (s : State) {x : BitVec 12} {b : Nat}
    (h : s.statuses.getLsbD b = x.getLsbD b) :
    s.settle.statuses.getLsbD b = (State.settle { s with statuses := x }).statuses.getLsbD b := by
  rw [Bool.eq_iff_iff, State.settle_status, State.settle_status, h]
  rfl

/-- What the table's reports leave stands through an event that spares the table. -/
theorem TableReports.tableTold_of_spares {s v w : State} {told : Prop} (h : TableReports s v told)
    (hw : SparesTable v w) : Claim.TableTold s w.settle told := by
  have hreports : TableReports s { w with statuses := v.statuses } told :=
    ⟨hw.masks.trans h.masks, hw.modes.trans h.modes, hw.latches.trans h.latches, by simpa [hw.ranks] using h.statuses⟩
  have hsame {b : Nat} (hb : b ≠ 8) := w.settle_status_local (hw.statuses b hb)
  have hreach (a : Fin 4) := hsame (b := 3 + a.1) (by omega)
  simp only [Claim.TableTold, Claim.Told, hsame (show 7 ≠ 8 by decide), hreach]
  exact hreports.tableTold

/-! ### The margin of a sender heard (R35, R37) -/

/-- The margin of an unknown sender is kept nowhere (R35). -/
theorem State.takeMargin_unknown {s : State} {a : Address}
    (h : ∀ (j : Fin 32) (n : Neighbour), s.table[j] = some n → n.address ≠ a) (margin : Nat) :
    s.takeMargin a margin = s := by
  rw [State.takeMargin, State.findNeighbour_eq_none h]

/-- A known sender's margin stands as it was, with the whole state, or its slot alone is written (R35, R37). -/
theorem State.takeMargin_known {s : State} {i : Fin 32} {n : Neighbour} (hn : s.table[i] = some n)
    (honly : ∀ (j : Fin 32) (m : Neighbour), j ≠ i → s.table[j] = some m → m.address ≠ n.address) (margin : Nat) :
    let n' := { n with marginAvg := smoothed n.marginAvg margin }
    (s.takeMargin n.address margin = s ∧ n' = n) ∨ SlotRefreshed s (s.takeMargin n.address margin) i (some n') False := by
  rw [State.takeMargin, State.findNeighbour_eq_some hn honly]
  dsimp only
  rw [hn]
  dsimp only
  split
  · next hsame => exact .inl ⟨rfl, by rw [hsame]⟩
  · exact .inr ((SlotWritten.setNeighbour s i _).refreshed .rfl)

/-- What a known sender's margin leaves: its slot moved in the margin alone, the ranks formed, nothing reported of
NEIGHBOURS (R35, R37, R45). -/
theorem State.takeMargin_moves {s : State} {i : Fin 32} {n : Neighbour} (hn : s.table[i] = some n)
    (honly : ∀ (j : Fin 32) (m : Neighbour), j ≠ i → s.table[j] = some m → m.address ≠ n.address) (margin : Nat) :
    let v := s.takeMargin n.address margin
    v.table[i] = some { n with marginAvg := smoothed n.marginAvg margin }
      ∧ (∀ j : Fin 32, j ≠ i → v.table[j] = s.table[j]) ∧ (s.ranks = s.formedRanks → v.ranks = v.formedRanks)
      ∧ TableReports s v False := by
  rcases State.takeMargin_known hn honly margin with ⟨hsame, hentry⟩ | h
  · dsimp only
    rw [hsame, hentry]
    exact ⟨hn, fun _ _ => rfl, id, .of_same rfl rfl rfl rfl rfl⟩
  · obtain ⟨hi, hj, hranks, -⟩ := h.settled
    obtain ⟨v, hv, hrefresh⟩ := h
    exact ⟨hi, hj, fun _ => hranks, hrefresh ▸ hv.reports⟩

/-- A good CARRY or HUSH from another station: the table takes the margin, and the rest of the event spares it (R13). -/
theorem exec_heard_spares {t : Time} {rate : Rate} {check : BitVec 16} {levels : List Int} {s : State} {c : Instr}
    {sender : Address} (hrx : s.rx = .receiving rate) (hother : sender ≠ s.own)
    (hc : (∃ h p, c = .carryReceived t h p check levels ∧ carryBad h p check levels = false ∧ h.sender = sender)
      ∨ ∃ h, c = .hushReceived t h check levels ∧ hushBad h check levels = false ∧ h.sender = sender) :
    ∃ w, exec c s = .next w.settle ∧ SparesTable (Claim.heard s t sender levels) w := by
  have hrx' : (s.advance t).rx.isReceiving = true := by rw [State.advance_rx, hrx]; rfl
  rcases hc with ⟨h, p, rfl, hgood, rfl⟩ | ⟨h, rfl, hgood, rfl⟩
  · exact ⟨_, congrArg _ (State.receive_good hrx' hgood hother _),
      (SparesTable.takeCarry _ h p).trans (.arbitrate _)⟩
  · exact ⟨_, congrArg _ (State.receive_good hrx' hgood hother _),
      (SparesTable.takeHush _ h).trans (.arbitrate _)⟩

/-- Settles O13: the table takes the margin before all else, and what follows in the event spares the table. -/
theorem otherFramesMoveTheMarginAlone : Obligations.OtherFramesMoveTheMarginAlone := by
  intro t rate check levels s c sender hrx hother hc
  let s' : State := (s.advance t).takeGood
  obtain ⟨w, hexec, hw⟩ := exec_heard_spares hrx hother hc
  refine ⟨fun hunknown => ?_, fun i n hn haddress honly => ?_⟩
  · have hheard : Claim.heard s t sender levels = s' := State.takeMargin_unknown (s := s') hunknown _
    have hreports : TableReports s s' False := .of_same rfl rfl rfl rfl rfl
    rw [hheard] at hw
    exact ⟨_, hexec, hw.table, hw.ranks, hreports.tableTold_of_spares hw⟩
  · subst haddress
    obtain ⟨hi, hj, hranks, hreports⟩ := State.takeMargin_moves (s := s') hn honly (marginOf levels)
    have htable : w.settle.table = (Claim.heard s t n.address levels).table := hw.table
    have hformed : RankLaw s → w.ranks = w.formedRanks := fun hlaw => by
      rw [hw.ranks, hw.formedRanks]
      exact hranks hlaw.2
    exact ⟨_, hexec, htable ▸ hi, fun j hne => htable ▸ hj j hne, hformed, hreports.tableTold_of_spares hw⟩

end Sys2Proof.Machine
end

section
namespace Sys2Proof.Machine

/-! ### The seen list's law, place by place (R60, R64) -/

/-- The hold entries are those at the places of the hold list (R73). -/
theorem State.mem_holds {s : State} {e : Hold} : e ∈ s.holds ↔ ∃ i : Fin 16, s.hold[i] = some e := by
  rw [State.holds, List.mem_filterMap]
  constructor
  · rintro ⟨o, ho, rfl⟩
    obtain ⟨i, hi, hget⟩ := Vector.mem_iff_getElem.1 (Vector.mem_toList_iff.1 ho)
    exact ⟨⟨i, hi⟩, hget⟩
  · rintro ⟨i, hi⟩
    exact ⟨some e, Vector.mem_toList_iff.2 (hi ▸ Vector.getElem_mem i.2), rfl⟩

theorem State.holds_length_le (s : State) : s.holds.length ≤ 16 :=
  (List.length_filterMap_le _ _).trans (by simp)

/-- No identity stands twice in the hold list exactly where each stands at one place (R64). -/
theorem State.holds_apart_iff (s : State) : (s.holds.map Hold.ident).Nodup ↔
    ∀ (i j : Fin 16) (e f : Hold), s.hold[i] = some e → s.hold[j] = some f → e.ident = f.ident → i = j := by
  rw [State.holds, List.Nodup, List.pairwise_map, List.pairwise_filterMap, List.pairwise_iff_getElem]
  simp only [Vector.length_toList, Vector.getElem_toList, id]
  constructor
  · intro h i j e f he hf hident
    rcases lt_trichotomy i j with hlt | heq | hgt
    · exact absurd hident (h i j i.2 j.2 hlt e he f hf)
    · exact heq
    · exact absurd hident.symm (h j i j.2 i.2 hgt f hf e he)
  · intro h i j hi hj hlt e he f hf hident
    have := h ⟨i, hi⟩ ⟨j, hj⟩ e f he hf hident
    simp at this
    omega

/-- A seen list and a hold list keep the law: at most 64 entries, no identity twice in either, and the PENDING entries
are those of the hold entries. -/
structure Matched (seen : List Seen) (hold : Vector (Option Hold) 16) : Prop where
  room : seen.length ≤ 64
  apart : (seen.map Seen.ident).Nodup
  alone : ∀ (i j : Fin 16) (e f : Hold), hold[i] = some e → hold[j] = some f → e.ident = f.ident → i = j
  listed : ∀ (i : Fin 16) (e : Hold), hold[i] = some e → ∃ x ∈ seen, x.ident = e.ident ∧ x.status = .pending
  held : ∀ x ∈ seen, x.status = .pending → ∃ (i : Fin 16) (e : Hold), hold[i] = some e ∧ e.ident = x.ident

theorem seenLaw_iff (s : State) : SeenLaw s ↔ Matched s.seen s.hold := by
  rw [SeenLaw, s.holds_apart_iff]
  simp only [State.mem_holds]
  constructor
  · rintro ⟨hroom, hapart, halone, hlisted, hheld⟩
    refine ⟨hroom, hapart, halone, fun i e he => hlisted e ⟨i, he⟩, fun x hx hp => ?_⟩
    obtain ⟨e, ⟨i, he⟩, hident⟩ := hheld x hx hp
    exact ⟨i, e, he, hident⟩
  · rintro ⟨hroom, hapart, halone, hlisted, hheld⟩
    refine ⟨hroom, hapart, halone, fun e ⟨i, he⟩ => hlisted i e he, fun x hx hp => ?_⟩
    obtain ⟨i, e, he, hident⟩ := hheld x hx hp
    exact ⟨e, ⟨i, he⟩, hident⟩

/-! ### What the two lists may undergo together (R61, R62, R64) -/

section Lists

variable {seen kept : List Seen} {hold : Vector (Option Hold) 16} {i : Fin 16} {e f : Hold} {x : Seen}

/-- A hold entry changed otherwise than in its identity. -/
theorem Matched.restated (h : Matched seen hold) (he : hold[i] = some e) (hf : f.ident = e.ident) :
    Matched seen (setAt hold i (some f)) := by
  have former {j : Fin 16} {g : Hold} (hg : (setAt hold i (some f))[j] = some g) :
      ∃ g', hold[j] = some g' ∧ g'.ident = g.ident := by
    rw [setAt_get] at hg
    split at hg
    · next hij => cases hg; exact ⟨e, hij ▸ he, hf.symm⟩
    · exact ⟨g, hg, rfl⟩
  refine ⟨h.room, h.apart, fun j k g g' hg hg' hident => ?_, fun j g hg => ?_, fun y hy hp => ?_⟩
  · obtain ⟨b, hb, hbi⟩ := former hg
    obtain ⟨b', hb', hbi'⟩ := former hg'
    exact h.alone j k b b' hb hb' (hbi.trans (hident.trans hbi'.symm))
  · obtain ⟨b, hb, hbi⟩ := former hg
    obtain ⟨y, hy, hyi, hp⟩ := h.listed j b hb
    exact ⟨y, hy, hyi.trans hbi, hp⟩
  · obtain ⟨j, g, hg, hident⟩ := h.held y hy hp
    rcases eq_or_ne i j with rfl | hne
    · obtain rfl : e = g := Option.some.inj (he.symm.trans hg)
      exact ⟨i, f, setAt_same .., hf.trans hident⟩
    · exact ⟨j, g, by rw [setAt_other _ _ hne, hg], hident⟩

/-- Seen entries changed otherwise than in identity and status (R67). -/
theorem Matched.updated {g : Seen → Seen} (h : Matched seen hold) (hident : ∀ x, (g x).ident = x.ident)
    (hstatus : ∀ x, (g x).status = x.status) : Matched (seen.map g) hold := by
  refine ⟨by simpa using h.room, ?_, h.alone, fun j b hb => ?_, fun y hy hp => ?_⟩
  · rw [List.map_map, show Seen.ident ∘ g = Seen.ident from funext hident]
    exact h.apart
  · obtain ⟨y, hy, hyi, hp⟩ := h.listed j b hb
    exact ⟨g y, List.mem_map_of_mem hy, (hident y).trans hyi, (hstatus y).trans hp⟩
  · obtain ⟨z, hz, rfl⟩ := List.mem_map.1 hy
    rw [hident]
    exact h.held z hz ((hstatus z).symm.trans hp)

/-- A hold entry goes and its PENDING seen entry settles (R61). -/
theorem Matched.removed {k : SeenStatus} (h : Matched seen hold) (he : hold[i] = some e) (hk : k ≠ .pending) :
    Matched (seen.map fun x => if x.ident = e.ident then x.settleAs k else x) (setAt hold i none) := by
  have other {j : Fin 16} {g : Hold} (hg : (setAt hold i none)[j] = some g) : i ≠ j ∧ hold[j] = some g := by
    rw [setAt_get] at hg
    split at hg
    · cases hg
    · next hne => exact ⟨hne, hg⟩
  refine ⟨by simpa using h.room, ?_, fun j l g g' hg hg' => h.alone j l g g' (other hg).2 (other hg').2,
    fun j g hg => ?_, fun y hy hp => ?_⟩
  · rw [List.map_map, show (Seen.ident ∘ fun x => if x.ident = e.ident then x.settleAs k else x) = Seen.ident from ?_]
    · exact h.apart
    · funext x
      dsimp only [Function.comp_apply]
      split
      · exact x.settleAs_ident k
      · rfl
  · obtain ⟨hne, hg⟩ := other hg
    obtain ⟨y, hy, hyi, hp⟩ := h.listed j g hg
    have hyne : y.ident ≠ e.ident := fun heq => hne (h.alone i j e g he hg (heq.symm.trans hyi))
    exact ⟨y, List.mem_map.2 ⟨y, hy, if_neg hyne⟩, hyi, hp⟩
  · obtain ⟨z, hz, rfl⟩ := List.mem_map.1 hy
    split at hp
    · unfold Seen.settleAs at hp
      split at hp
      · exact absurd hp hk
      · next hsettled => exact absurd hp hsettled
    · next hzne =>
      rw [if_neg hzne]
      obtain ⟨j, g, hg, hident⟩ := h.held z hz hp
      have hne : i ≠ j := by
        rintro rfl
        exact hzne (hident.symm.trans (congrArg _ (Option.some.inj (hg.symm.trans he))))
      exact ⟨j, g, by rw [setAt_other _ _ hne, hg], hident⟩

/-- Seen entries that are not PENDING may go (R62). -/
theorem Matched.thinned (h : Matched seen hold) (hkept : kept.Sublist seen)
    (hpending : ∀ y ∈ seen, y.status = .pending → y ∈ kept) : Matched kept hold := by
  refine ⟨hkept.length_le.trans h.room, h.apart.sublist (hkept.map _), h.alone, fun j g hg => ?_,
    fun y hy => h.held y (hkept.subset hy)⟩
  obtain ⟨y, hy, hyi, hp⟩ := h.listed j g hg
  exact ⟨y, hpending y hy hp, hyi, hp⟩

theorem nodup_append_ident (h : (seen.map Seen.ident).Nodup) (hnew : ∀ y ∈ seen, y.ident ≠ x.ident) :
    ((seen ++ [x]).map Seen.ident).Nodup := by
  simpa [List.nodup_append, h] using hnew

/-- A new identity comes to the seen list alone, not as PENDING (R65). -/
theorem Matched.appended (h : Matched seen hold) (hroom : seen.length < 64) (hnew : ∀ y ∈ seen, y.ident ≠ x.ident)
    (hx : x.status ≠ .pending) : Matched (seen ++ [x]) hold := by
  refine ⟨by simpa using hroom, nodup_append_ident h.apart hnew, h.alone, fun j g hg => ?_, fun y hy hp => ?_⟩
  · obtain ⟨y, hy, hyi, hp⟩ := h.listed j g hg
    exact ⟨y, List.mem_append_left _ hy, hyi, hp⟩
  · rcases List.mem_append.1 hy with hy | hy
    · exact h.held y hy hp
    · obtain rfl := List.mem_singleton.1 hy
      exact absurd hp hx

/-- A new identity comes to both lists, PENDING in the seen list (R64). -/
theorem Matched.joined (h : Matched seen hold) (hroom : seen.length < 64) (hnew : ∀ y ∈ seen, y.ident ≠ x.ident)
    (hi : hold[i] = none) (hx : x.status = .pending) (hident : e.ident = x.ident) :
    Matched (seen ++ [x]) (setAt hold i (some e)) := by
  have absent (j : Fin 16) (g : Hold) (hg : hold[j] = some g) : g.ident ≠ x.ident := by
    obtain ⟨y, hy, hyi, -⟩ := h.listed j g hg
    exact fun heq => hnew y hy (hyi.trans heq)
  have place {j : Fin 16} {g : Hold} (hg : (setAt hold i (some e))[j] = some g) :
      (i = j ∧ g.ident = x.ident) ∨ hold[j] = some g := by
    rw [setAt_get] at hg
    split at hg
    · next hij => cases hg; exact .inl ⟨hij, hident⟩
    · exact .inr hg
  refine ⟨by simpa using hroom, nodup_append_ident h.apart hnew, fun j l g g' hg hg' hsame => ?_, fun j g hg => ?_,
    fun y hy hp => ?_⟩
  · rcases place hg with ⟨rfl, hgi⟩ | hg <;> rcases place hg' with ⟨rfl, hgi'⟩ | hg'
    · rfl
    · exact absurd (hsame.symm.trans hgi) (absent l g' hg')
    · exact absurd (hsame.trans hgi') (absent j g hg)
    · exact h.alone j l g g' hg hg' hsame
  · rcases place hg with ⟨-, hgi⟩ | hg
    · exact ⟨x, by simp, hgi.symm, hx⟩
    · obtain ⟨y, hy, hyi, hp⟩ := h.listed j g hg
      exact ⟨y, List.mem_append_left _ hy, hyi, hp⟩
  · rcases List.mem_append.1 hy with hy | hy
    · obtain ⟨j, g, hg, hyi⟩ := h.held y hy hp
      have hne : i ≠ j := by
        rintro rfl
        rw [hi] at hg
        cases hg
      exact ⟨j, g, by rw [setAt_other _ _ hne, hg], hyi⟩
    · obtain rfl := List.mem_singleton.1 hy
      exact ⟨i, e, setAt_same .., hident⟩

end Lists

/-! ### Insertion and eviction (R62) -/

/-- At most 16 identities are PENDING, since each has a hold entry of its own (R64, R73). -/
theorem SeenLaw.pending_le {s : State} (h : SeenLaw s) {ids : List Ident} (hids : ids.Nodup)
    (hpending : ∀ k ∈ ids, ∃ x ∈ s.seen, x.ident = k ∧ x.status = .pending) : ids.length ≤ 16 := by
  obtain ⟨-, -, -, -, hheld⟩ := h
  have hsub : ids ⊆ s.holds.map Hold.ident := fun k hk => by
    obtain ⟨x, hx, rfl, hp⟩ := hpending k hk
    exact List.mem_map.2 (hheld x hx hp)
  calc ids.length ≤ (s.holds.map Hold.ident).length := (hids.subperm hsub).length_le
    _ = s.holds.length := List.length_map ..
    _ ≤ 16 := s.holds_length_le

/-- A list of 64 has an entry that is not PENDING (R62, R64). -/
theorem SeenLaw.evictable {s : State} (h : SeenLaw s) (hfull : 64 ≤ s.seen.length) :
    ∃ x ∈ s.seen, x.status ≠ .pending := by
  by_contra hall
  push Not at hall
  have := h.pending_le ((seenLaw_iff s).1 h).apart fun k hk => by
    obtain ⟨x, hx, rfl⟩ := List.mem_map.1 hk
    exact ⟨x, hx, rfl, hall x hx⟩
  rw [List.length_map] at this
  omega

/-- The list an insertion puts its entry behind (R62). -/
def State.evicted (s : State) : List Seen :=
  if 64 ≤ s.seen.length then s.seen.eraseP fun x => x.status ≠ .pending else s.seen

theorem State.insertSeen_eq (s : State) (x : Seen) : (s.insertSeen x).seen = s.evicted ++ [x] := rfl

theorem State.evicted_of_room {s : State} (h : s.seen.length < 64) : s.evicted = s.seen := if_neg (by omega)

/-- A full list loses its oldest entry that is not PENDING (R62). -/
theorem State.evicted_of_full {s : State} {x : Seen} {before after : List Seen} (hseen : s.seen = before ++ x :: after)
    (hfull : 64 ≤ s.seen.length) (hbefore : ∀ y ∈ before, y.status = .pending) (hx : x.status ≠ .pending) :
    s.evicted = before ++ after := by
  rw [State.evicted, if_pos hfull, hseen, List.eraseP_append_right _ (by simpa using hbefore),
    List.eraseP_cons_of_pos (by simpa using hx)]

/-- An eviction takes no PENDING entry and leaves room for one more (R62). -/
theorem SeenLaw.evicted {s : State} (h : SeenLaw s) :
    Matched s.evicted s.hold ∧ s.evicted.length < 64 ∧ s.evicted ⊆ s.seen := by
  have hm := (seenLaw_iff s).1 h
  unfold State.evicted
  split
  · next hfull =>
    refine ⟨hm.thinned List.eraseP_sublist fun y hy hp => (List.mem_eraseP_of_neg (by simpa using hp)).2 hy, ?_,
      List.eraseP_subset⟩
    obtain ⟨x, hx, hp⟩ := h.evictable hfull
    have := List.length_eraseP_of_mem (p := fun x : Seen => decide (x.status ≠ .pending)) hx (by simpa using hp)
    have := hm.room
    omega
  · next hroom => exact ⟨hm, by omega, fun _ hy => hy⟩

end Sys2Proof.Machine
end

section
namespace Sys2Proof.Machine

/-! ### Shared operations on the seen list and the hold list (R61 to R69) -/

theorem SeenLaw.matched {s : State} (h : SeenLaw s) : Matched s.seen s.hold := (seenLaw_iff s).1 h

/-- The law of a state whose seen list and hold list are as stated. -/
theorem Matched.law {u : State} {seen : List Seen} {hold : Vector (Option Hold) 16} (h : Matched seen hold)
    (hseen : u.seen = seen) (hhold : u.hold = hold) : SeenLaw u :=
  (seenLaw_iff u).2 (by rwa [hseen, hhold])

/-- An operation that reaches neither list. -/
theorem SeenLaw.of_frame {s u : State} (h : SeenLaw s) (hu : u.seen = s.seen ∧ u.hold = s.hold) : SeenLaw u :=
  h.matched.law hu.1 hu.2

theorem Ending.seenStatus_ne_pending (k : Ending) : k.seenStatus ≠ .pending := by
  cases k <;> simp [Ending.seenStatus]

/-- A removed entry settles its seen entry (R61, R75). -/
theorem SeenLaw.removeHold {s : State} (h : SeenLaw s) (i : Fin 16) (k : Ending) : SeenLaw (s.removeHold i k) := by
  cases he : s.hold[i] with
  | none => rwa [State.removeHold_none he]
  | some e =>
    obtain ⟨hhold, -, hseen, -⟩ := State.removeHold_some (k := k) he
    exact (h.matched.removed he k.seenStatus_ne_pending).law hseen hhold

/-- An entry put back at its index under its identity. -/
theorem SeenLaw.restated {s u : State} {i : Fin 16} {e f : Hold} (h : SeenLaw s) (he : s.hold[i] = some e)
    (hu : u.seen = s.seen ∧ u.hold = setAt s.hold i (some f)) (hf : f.ident = e.ident) : SeenLaw u :=
  (h.matched.restated he hf).law hu.1 hu.2

/-- A seen entry changed otherwise than in identity and status (R67). -/
theorem SeenLaw.updateSeen {s : State} (h : SeenLaw s) (k : Ident) {f : Seen → Seen}
    (hf : ∀ x, (f x).ident = x.ident ∧ (f x).status = x.status) : SeenLaw (s.updateSeen k f) := by
  have hkept (x : Seen) : (if x.ident = k then f x else x).ident = x.ident
      ∧ (if x.ident = k then f x else x).status = x.status := by
    split
    · exact hf x
    · exact ⟨rfl, rfl⟩
  exact (h.matched.updated (fun x => (hkept x).1) fun x => (hkept x).2).law rfl rfl

theorem State.findSeen_none {s : State} {k : Ident} (h : s.findSeen k = none) : ∀ y ∈ s.seen, y.ident ≠ k := by
  simpa using List.find?_eq_none.1 h

theorem State.insertSeen_congr {s u : State} (h : u.seen = s.seen) (x : Seen) :
    (u.insertSeen x).seen = (s.insertSeen x).seen := by
  simp only [State.insertSeen, h]

/-- A new identity inserted alone, not as PENDING (R65, R69, R107). -/
theorem SeenLaw.inserted {s u : State} {x : Seen} (h : SeenLaw s)
    (hu : u.seen = (s.insertSeen x).seen ∧ u.hold = s.hold) (hnew : ∀ y ∈ s.seen, y.ident ≠ x.ident)
    (hx : x.status ≠ .pending) : SeenLaw u := by
  obtain ⟨hm, hroom, hsub⟩ := h.evicted
  exact (hm.appended hroom (fun y hy => hnew y (hsub hy)) hx).law hu.1 hu.2

/-- A new identity inserted as PENDING together with its hold entry (R64, R65, R156). -/
theorem SeenLaw.joined {s u : State} {x : Seen} {i : Fin 16} {e : Hold} (h : SeenLaw s)
    (hu : u.seen = (s.insertSeen x).seen ∧ u.hold = setAt s.hold i (some e)) (hi : s.hold[i] = none)
    (hnew : ∀ y ∈ s.seen, y.ident ≠ x.ident) (hx : x.status = .pending) (hident : e.ident = x.ident) : SeenLaw u := by
  obtain ⟨hm, hroom, hsub⟩ := h.evicted
  exact (hm.joined hroom (fun y hy => hnew y (hsub hy)) hi hx hident).law hu.1 hu.2

/-! ### First copies (R65, R76, R107) -/

theorem State.addHold_at {s : State} {i : Fin 16} (h : s.freeIndex = some i) (e : Hold) :
    s.addHold e = s.setHold i (some e) := by
  simp only [State.addHold, h]

theorem State.freeIndex_congr {s u : State} (h : u.hold = s.hold) : u.freeIndex = s.freeIndex := by
  simp only [State.freeIndex, h]

/-- What an arrival that is held found free (R81). -/
theorem State.arrivalOf_held {s : State} {h : CarryHeader} (hheld : s.arrivalOf h = .held) :
    s.freeIndex ≠ none ∧ blocksFor h.length.toNat ≤ s.free.length := by
  unfold State.arrivalOf at hheld
  iterate 4 (split at hheld; · cases hheld)
  split at hheld
  · cases hheld
  · next hindex =>
    split at hheld
    · cases hheld
    · next hfree => exact ⟨hindex, not_lt.1 hfree⟩

/-- A held first copy takes the lowest free index under its identity (R73, R82). -/
theorem State.holdArrival_hold {s : State} {h : CarryHeader} {i : Fin 16} (hi : s.freeIndex = some i)
    (hfree : blocksFor h.length.toNat ≤ s.free.length) (p : List Byte) :
    ∃ e : Hold, e.ident = carryIdent h ∧ (s.holdArrival h p).hold = setAt s.hold i (some e) := by
  have hindex (n : Nat) (c : List Host.Cell) :
      (State.drawn { s with free := s.free.drop n, mem := c }).freeIndex = some i :=
    (State.freeIndex_congr rfl).trans hi
  simp only [State.holdArrival, State.allocate, if_pos hfree, State.addHold_at (hindex _ _)]
  exact ⟨_, rfl, rfl⟩

/-- A first copy that is not held leaves the hold list (R83). -/
theorem State.applyArrival_hold {a : Arrival} (s : State) (h : CarryHeader) (p : List Byte) (ha : a ≠ .held) :
    (s.applyArrival h p a).hold = s.hold := by
  cases a <;> first
    | rfl
    | exact absurd rfl ha

theorem SeenLaw.relayFirstCopy {s : State} (hs : SeenLaw s) (h : CarryHeader) (p : List Byte)
    (hnew : s.findSeen (carryIdent h) = none) : SeenLaw (s.relayFirstCopy h p) := by
  have hnew := State.findSeen_none hnew
  unfold State.relayFirstCopy
  extract_lets arrival s1 s2
  have hseen : s2.seen = s.seen := by simp only [s2, s1, apply_ite State.seen]; simp
  have hhold : s2.hold = s1.hold := by simp only [s2, apply_ite State.hold]; simp
  by_cases hheld : arrival = .held
  · obtain ⟨hindex, hfree⟩ := State.arrivalOf_held hheld
    obtain ⟨i, hi⟩ := Option.ne_none_iff_exists'.1 hindex
    obtain ⟨e, hident, he⟩ := State.holdArrival_hold hi hfree p
    have hs1 : s1.hold = setAt s.hold i (some e) := by rw [← he]; simp only [s1, hheld, State.applyArrival]
    exact hs.joined ⟨State.insertSeen_congr hseen _, hhold.trans hs1⟩ (State.freeIndex_some hi) hnew
      (if_pos hheld) hident
  · have hstatus (delivered : Bool) : arrivalStatus arrival delivered ≠ .pending := by
      cases delivered <;> simp [arrivalStatus, hheld]
    exact hs.inserted ⟨State.insertSeen_congr hseen _, hhold.trans (s.applyArrival_hold h p hheld)⟩ hnew (hstatus _)

theorem SeenLaw.offerHush {s : State} (h : SeenLaw s) (k : Ident) : SeenLaw (s.offerHush k) := h.of_frame (by simp)

/-- The anchor responder inserts as DELIVERED, or not at all (R107 to R109). -/
theorem SeenLaw.anchorFirstCopy {s : State} (hs : SeenLaw s) (h : CarryHeader) (p : List Byte)
    (hnew : s.findSeen (carryIdent h) = none) : SeenLaw (s.anchorFirstCopy h p) := by
  unfold State.anchorFirstCopy
  split
  · exact (hs.inserted ⟨State.insertSeen_congr (by simp) _, by simp⟩ (State.findSeen_none hnew) (by simp)).offerHush _
  · exact hs.of_frame (by simp)

/-! ### Copies and HUSHes (R67 to R69, R86 to R89) -/

theorem Seen.heardCopy_keeps (goal : Goal) (rank : Option Rank) (x : Seen) :
    (x.heardCopy goal rank).ident = x.ident ∧ (x.heardCopy goal rank).status = x.status := by
  unfold Seen.heardCopy
  dsimp only
  repeat' split
  all_goals exact ⟨rfl, rfl⟩

theorem SeenLaw.judgeCopy {s : State} (h : SeenLaw s) (i : Fin 16) (rank : Option Rank) (copies : Nat) :
    SeenLaw (s.judgeCopy i rank copies) := by
  unfold State.judgeCopy
  repeat' split
  all_goals first
    | exact h
    | exact h.removeHold i _

theorem SeenLaw.judgeHush {s : State} (h : SeenLaw s) (i : Fin 16) : SeenLaw (s.judgeHush i) := by
  unfold State.judgeHush
  repeat' split
  all_goals first
    | exact h
    | exact h.removeHold i _

theorem SeenLaw.takeCopy {s : State} (hs : SeenLaw s) (e : Seen) (h : CarryHeader) : SeenLaw (s.takeCopy e h) := by
  have hcounted := hs.updateSeen e.ident (Seen.heardCopy_keeps (carryGoal h) (carryRank h))
  unfold State.takeCopy
  dsimp only
  split
  · split
    · split
      · exact hcounted.judgeCopy ..
      · exact hcounted
    · split
      · refine SeenLaw.offerHush (hcounted.updateSeen e.ident ?_) _
        exact fun _ => ⟨rfl, rfl⟩
      · exact hcounted
    all_goals exact hcounted
  · exact hcounted

theorem SeenLaw.takeCarry {s : State} (hs : SeenLaw s) (h : CarryHeader) (p : List Byte) :
    SeenLaw (s.takeCarry h p) := by
  unfold State.takeCarry
  split
  · exact hs.takeCopy ..
  · next hnew =>
    split
    · exact hs
    · split
      · exact hs.anchorFirstCopy h p hnew
      · exact hs.relayFirstCopy h p hnew

theorem SeenLaw.takeHush {s : State} (hs : SeenLaw s) (h : HushHeader) : SeenLaw (s.takeHush h) := by
  unfold State.takeHush
  split
  · repeat' split
    · exact hs.judgeHush _
    all_goals exact hs
  · next hnew => exact hs.inserted ⟨rfl, rfl⟩ (State.findSeen_none hnew) (by simp)

/-! ### Expiries, deferrals, grants (R15, R18, R91, R93, R98) -/

theorem SeenLaw.expireHold {s : State} (h : SeenLaw s) {i : Fin 16} {e : Hold} (he : s.hold[i] = some e) :
    SeenLaw (s.expireHold i e) := by
  unfold State.expireHold
  split
  · exact h.removeHold i _
  · exact h.restated he ⟨rfl, rfl⟩ rfl

theorem SeenLaw.expireEcho {s : State} (h : SeenLaw s) {i : Fin 16} {e : Hold} (he : s.hold[i] = some e) :
    SeenLaw (s.expireEcho i e) := by
  have hbase : SeenLaw s.unechoedOutcome := h.of_frame (by simp)
  have hentry : s.unechoedOutcome.hold[i] = some e := by simpa using he
  unfold State.expireEcho
  dsimp only
  split
  · exact hbase.restated hentry ⟨rfl, rfl⟩ rfl
  · exact hbase.removeHold i _

theorem SeenLaw.deferOwner {s : State} (h : SeenLaw s) (o : Owner) : SeenLaw (s.deferOwner o) := by
  cases o with
  | hold i =>
    unfold State.deferOwner
    dsimp only
    split
    · next e he =>
      split
      · exact h.restated he ⟨rfl, rfl⟩ rfl
      · exact SeenLaw.removeHold (s := { s with tx := none }) h i _
    · exact h
  | beacon => unfold State.deferOwner; dsimp only; split <;> exact h
  | hush => exact h
  | survey => exact h

theorem SeenLaw.granted {s : State} (h : SeenLaw s) (o : Owner) : SeenLaw (s.granted o) := by
  cases o with
  | hold i =>
    unfold State.granted State.markGranted
    dsimp only
    split
    · next e he => exact h.restated he ⟨rfl, rfl⟩ rfl
    · exact h
  | beacon => unfold State.granted State.markGranted; dsimp only; split <;> exact h
  | hush => exact h
  | survey => exact h

theorem SeenLaw.grant {s : State} (h : SeenLaw s) (o : Owner) : SeenLaw (s.grant o) := by
  cases hrx : s.rx.busy with
  | false => rw [State.grant_of_idle hrx]; exact h.granted o
  | true => rw [State.grant_of_busy hrx]; exact (h.granted o).deferOwner o

/-- The end of an event (R15, R169). -/
theorem SeenLaw.finish {s : State} (h : SeenLaw s) : SeenLaw s.finish :=
  State.arbitrateUpTo_induct (P := SeenLaw) (fun _ o h _ _ _ => h.grant o) 19 s h

theorem SeenLaw.judgeBusy {s : State} (h : SeenLaw s) : SeenLaw s.judgeBusy := by
  unfold State.judgeBusy
  repeat' split
  · exact h.deferOwner _
  all_goals exact h

/-! ### Clear, sent, SILENCE (R94, R96, R100) -/

theorem SeenLaw.clearChannel {s : State} (h : SeenLaw s) (a : Attempt) : SeenLaw (s.clearChannel a) := by
  unfold State.clearChannel State.ownerClear
  split
  case h_3 i =>
    split
    · next e he => exact h.restated he ⟨rfl, rfl⟩ rfl
    · exact h
  all_goals exact h

theorem SeenLaw.holdSent {s : State} (h : SeenLaw s) (i : Fin 16) : SeenLaw (s.holdSent i) := by
  unfold State.holdSent
  split
  · exact h
  · next e he =>
    split
    · split
      · exact h.removeHold i _
      · exact h.restated he ⟨rfl, rfl⟩ rfl
    · exact h.removeHold i _

theorem SeenLaw.endBody {s : State} (h : SeenLaw s) (a : Attempt) : SeenLaw (s.endBody a) := by
  have hreleased : SeenLaw s.released := h
  rw [State.endBody_eq]
  unfold State.ownerSent
  split
  · exact hreleased.of_frame (by simp [State.beaconSent])
  · exact hreleased
  · exact hreleased.holdSent _
  · exact hreleased.of_frame (by simp)

theorem SeenLaw.silenced {s : State} (h : SeenLaw s) : SeenLaw s.silenced := by
  have hone (v : State) (i : Fin 16) (hv : SeenLaw v) : SeenLaw (v.silenceHold i) := by
    unfold State.silenceHold
    split
    · exact hv
    · exact hv.removeHold i _
  have hall (l : List (Fin 16)) : ∀ v, SeenLaw v → SeenLaw (l.foldl State.silenceHold v) := by
    induction l with
    | nil => exact fun v hv => hv
    | cons i l ih => exact fun v hv => ih _ (hone v i hv)
  have hcancelled : SeenLaw (State.cancelAttempt { s with station := .silent }) := h.of_frame (by simp)
  exact (hall (List.finRange 16) _ hcancelled).of_frame (by simp [State.silenced, State.silenceHolds])

end Sys2Proof.Machine
end

section
namespace Sys2Proof.Machine

/-! ### A serial for a SUBMIT (R63, R155) -/

theorem State.serialPending_iff (s : State) (v : Serial) :
    s.serialPending v = true ↔ ∃ x ∈ s.seen, x.ident = ⟨s.own, v⟩ ∧ x.status = .pending := by
  simp [State.serialPending]

/-- Where the serial found is PENDING, so are all that were tried (R155). -/
theorem State.searchSerial_pending {s : State} : ∀ {n : Nat} {v : Serial},
    s.serialPending (s.searchSerial n v) = true → ∀ k ≤ n, s.serialPending (v + BitVec.ofNat 12 k) = true := by
  intro n
  induction n with
  | zero =>
    intro v h k hk
    obtain rfl := Nat.le_zero.1 hk
    simpa [State.searchSerial] using h
  | succ n ih =>
    intro v h k hk
    unfold State.searchSerial at h
    split at h
    · next hv =>
      cases k with
      | zero => simpa using hv
      | succ k =>
        have hshift : v + BitVec.ofNat 12 (k + 1) = v + 1 + BitVec.ofNat 12 k := by
          rw [BitVec.add_assoc, Nat.add_comm k, BitVec.ofNat_add]
          rfl
        rw [hshift]
        exact ih h k (by omega)
    · next hv => exact absurd h hv

/-- Of 18 serials one is not PENDING, since at most 16 identities are (R63, R73). -/
theorem SeenLaw.searchSerial_free {s : State} (h : SeenLaw s) (v : Serial) :
    s.serialPending (s.searchSerial 17 v) = false := by
  rw [Bool.eq_false_iff]
  intro hp
  let tried : List Ident := (List.range 18).map fun k => ⟨s.own, v + BitVec.ofNat 12 k⟩
  have hdistinct : tried.Nodup := by
    refine List.Nodup.map_on (fun j hj k hk heq => ?_) List.nodup_range
    have hsame : BitVec.ofNat 12 j = BitVec.ofNat 12 k := (BitVec.add_right_inj v).1 (Ident.mk.inj heq).2
    rw [List.mem_range] at hj hk
    have := congrArg BitVec.toNat hsame
    simp only [BitVec.toNat_ofNat] at this
    omega
  have hcount := h.pending_le hdistinct fun k hk => by
    obtain ⟨n, hn, rfl⟩ := List.mem_map.1 hk
    rw [List.mem_range] at hn
    exact (s.serialPending_iff _).1 (State.searchSerial_pending hp n (by omega))
  simp [tried] at hcount

theorem State.searchSerial_congr {s u : State} (hseen : u.seen = s.seen) (hown : u.own = s.own) :
    ∀ (n : Nat) (v : Serial), u.searchSerial n v = s.searchSerial n v := by
  intro n
  induction n with
  | zero => exact fun v => rfl
  | succ n ih =>
    intro v
    have hpending : u.serialPending v = s.serialPending v := by simp only [State.serialPending, hseen, hown]
    rw [State.searchSerial, State.searchSerial, hpending, ih]

/-! ### An accepted SUBMIT (R153, R156) -/

theorem State.seeded_lists (s : State) :
    s.seeded.1.seen = s.seen ∧ s.seeded.1.hold = s.hold ∧ s.seeded.1.own = s.own := by
  unfold State.seeded
  split <;> exact ⟨rfl, rfl, rfl⟩

/-- What remains of the seen list when an own serial is taken again: all but its old entry (R63). -/
def State.forgot (s : State) (k : Ident) : State := { s with seen := s.seen.filter fun y => y.ident ≠ k }

/-- An old entry that is not PENDING may go (R63). -/
theorem SeenLaw.forgot {s : State} (h : SeenLaw s) {k : Ident} (hk : ∀ y ∈ s.seen, y.ident = k → y.status ≠ .pending) :
    SeenLaw (s.forgot k) := by
  refine (h.matched.thinned List.filter_sublist fun y hy hp => ?_).law rfl rfl
  exact List.mem_filter.2 ⟨hy, decide_eq_true fun heq => hk y hy heq hp⟩

/-- What an accepted SUBMIT does to the two lists: an own identity whose serial was searched for comes to both, its old
entry gone (R156). -/
theorem State.acceptSubmit_lists {s u : State} {i : Fin 16} (hi : s.freeIndex = some i) {goal : Goal} {dest : Address}
    {hops : Byte} {payload : List Byte} (hu : s.acceptSubmit goal dest hops payload = u) :
    u = s ∨ ∃ (v : Serial) (x : Seen) (e : Hold),
      (u.seen = ((s.forgot x.ident).insertSeen x).seen ∧ u.hold = setAt s.hold i (some e))
        ∧ x.ident = ⟨s.own, s.searchSerial 17 v⟩ ∧ x.status = .pending ∧ e.ident = x.ident := by
  unfold State.acceptSubmit at hu
  split at hu
  · next s1 chain k halloc _ =>
    split at hu
    next s2 start hseeded =>
      obtain ⟨hseen, hhold, hown⟩ := s1.seeded_lists
      rw [hseeded, State.allocate_frame halloc] at hseen hhold hown
      have hserial : s2.searchSerial 17 start = s.searchSerial 17 start := State.searchSerial_congr hseen hown 17 start
      extract_lets serial ident s3 s4 s5 at hu
      have hs3 : s3.seen = (s.forgot ident).seen := congrArg (List.filter _) hseen
      have hindex : s4.drawn.freeIndex = some i := (State.freeIndex_congr hhold).trans hi
      obtain ⟨e, hs5, he⟩ : ∃ e : Hold, s5 = s4.drawn.setHold i (some e) ∧ e.ident = ident :=
        ⟨_, State.addHold_at hindex _, rfl⟩
      subst hu
      refine .inr ⟨start, { ident, goal, status := .pending, extraCopies := 0, bestRank := none, hushCount := 0 }, e,
        ⟨?_, ?_⟩, congrArg _ hserial, rfl, he⟩
      · exact (congrArg State.seen hs5).trans (State.insertSeen_congr hs3 _)
      · exact (congrArg State.hold hs5).trans (congrArg (setAt · i (some e)) hhold)
  · exact .inl hu.symm
  · exact .inl hu.symm

/-- A SUBMIT that is not refused finds a free hold index (R153). -/
theorem State.submitRefusal_none {s : State} {discipline target : Byte} {dest : Address} {n : Nat}
    (h : s.submitRefusal discipline target dest n = none) : ∃ i, s.freeIndex = some i := by
  unfold State.submitRefusal at h
  iterate 3 (split at h; · cases h)
  split at h
  · cases h
  · next hfull => exact Option.ne_none_iff_exists'.1 fun hnone => hfull (.inr hnone)

theorem SeenLaw.acceptSubmit {s : State} (h : SeenLaw s) (hindex : ∃ i, s.freeIndex = some i) (goal : Goal)
    (dest : Address) (hops : Byte) (payload : List Byte) : SeenLaw (s.acceptSubmit goal dest hops payload) := by
  obtain ⟨i, hi⟩ := hindex
  rcases State.acceptSubmit_lists hi rfl with hsame | ⟨v, x, e, hu, hx, hp, he⟩
  · rw [hsame]
    exact h
  · have hfree : ∀ y ∈ s.seen, y.ident = x.ident → y.status ≠ .pending := fun y hy hyx hyp => by
      have := (s.serialPending_iff _).2 ⟨y, hy, hyx.trans hx, hyp⟩
      rw [h.searchSerial_free v] at this
      cases this
    have hnew : ∀ y ∈ (s.forgot x.ident).seen, y.ident ≠ x.ident := fun y hy => by
      simpa using (List.mem_filter.1 hy).2
    exact (h.forgot hfree).joined hu (State.freeIndex_some hi) hnew hp he

/-! ### Rows (R60, R64) -/

theorem SeenLaw.settle {s : State} (h : SeenLaw s) : SeenLaw s.settle := h

theorem SeenLaw.ok {s : State} (h : SeenLaw s) : SeenLaw s.ok := h

/-- The law of every next state of an outcome. -/
def SeenTo (o : Host.Outcome State Fault Refusal) : Prop := ∀ u, o = .next u → SeenLaw u

theorem SeenTo.next {u : State} (h : SeenLaw u) : SeenTo (.next u) := fun _ hv => by cases hv; exact h

/-- An event that occurs, or does not (log 2). -/
theorem SeenTo.ite {p : Prop} [Decidable p] {v w : State} (hv : SeenLaw v) (hw : SeenLaw w) :
    SeenTo (if p then .next v else .next w) := by
  split
  · exact .next hv
  · exact .next hw

/-- A command of the lamp port is answered, or has its effect (R163). -/
theorem SeenTo.port {s : State} (hs : SeenLaw s) (t : Time) (c : PortClass) {effect : State → State}
    (h : ∀ v, SeenLaw v → SeenLaw (effect v)) : SeenTo (.next ((s.advance t).port c effect)) := by
  refine SeenTo.next ?_
  unfold State.port
  split
  · exact hs
  · exact h _ hs

/-- A received frame is discarded or handed off (R10, R12, R13). -/
theorem SeenTo.receive {s : State} (hs : SeenLaw s) (t : Time) (bad : Bool) (sender : Address)
    {handOff : State → State} (h : ∀ v, SeenLaw v → SeenLaw (handOff v)) :
    SeenTo (.next ((s.advance t).receive bad sender handOff)) := by
  refine SeenTo.next ?_
  unfold State.receive
  split
  · split
    · exact hs
    · split
      · exact hs
      · exact (h (s.advance t).takeGood hs).finish
  · exact hs

/-- Both lists are empty at reset (R181). -/
theorem seenLaw_resetBlocks (s : State) : SeenLaw s.resetBlocks := by
  show SeenLaw State.reset
  unfold SeenLaw
  decide

section Rows

variable {s : State}

/-- The load and the acceptance of a record reach neither list (R182, R184). -/
theorem SeenLaw.acceptBytes (hs : SeenLaw s) (bytes : Nat → Byte) : SeenLaw (s.acceptBytes bytes) := by
  have haccepted : SeenLaw (s.acceptRecord (recordOf bytes)) := hs.of_frame ⟨rfl, rfl⟩
  unfold State.acceptBytes
  dsimp only
  split <;> exact haccepted.of_frame ⟨rfl, rfl⟩

theorem seenTo_configStatusPoll (hs : SeenLaw s) (t : Time) (status : Byte) :
    SeenTo (execConfigStatusPoll t status s) := by
  unfold execConfigStatusPoll
  dsimp only
  split
  · exact .ite hs hs
  all_goals exact .next hs

theorem seenTo_configLoadTimeout (hs : SeenLaw s) (t : Time) : SeenTo (execConfigLoadTimeout t s) := by
  unfold execConfigLoadTimeout
  dsimp only
  split
  · exact .ite hs hs
  all_goals exact .next hs

theorem seenTo_configReadDone (hs : SeenLaw s) (t : Time) (driven : List Byte) :
    SeenTo (execConfigReadDone t driven s) := by
  have haccepted : SeenLaw ((s.advance t).acceptBytes (memoryBytes driven)) :=
    SeenLaw.acceptBytes (s := s.advance t) hs _
  unfold execConfigReadDone
  dsimp only
  split
  · split
    · exact .next hs
    · exact .ite hs haccepted
  · exact .next hs

theorem seenTo_preambleDetected (hs : SeenLaw s) (t : Time) (rate : Rate) (unit : Byte) :
    SeenTo (execPreambleDetected t rate unit s) := by
  unfold execPreambleDetected
  dsimp only
  split
  · exact .next (SeenLaw.finish (SeenLaw.judgeBusy (s := { s.advance t with rx := _ }) hs))
  all_goals exact .next hs

theorem seenTo_startMark (hs : SeenLaw s) (t : Time) : SeenTo (execStartMark t s) := by
  unfold execStartMark
  dsimp only
  split <;> exact .next hs

theorem seenTo_preambleEndNoFrame (hs : SeenLaw s) (t : Time) (unit : Byte) :
    SeenTo (execPreambleEndNoFrame t unit s) := by
  unfold execPreambleEndNoFrame
  dsimp only
  split
  · exact .ite hs hs
  all_goals exact .next hs

/-- The end of a phase writes the hold list at CCA_MS clear and at "sent" alone (R94, R96). -/
theorem seenTo_phases (hs : SeenLaw s) (t : Time) : SeenTo (execCcaClear t s) ∧ SeenTo (execSettlingEnd t s)
    ∧ SeenTo (execPreambleSent t s) ∧ SeenTo (execBodyEnd t s) := by
  have hadvance : SeenLaw (s.advance t) := hs
  unfold execCcaClear execSettlingEnd execPreambleSent execBodyEnd
  dsimp only
  refine ⟨?_, ?_, ?_, ?_⟩
  · split
    · exact .next (hadvance.clearChannel _)
    · exact .next hs
  · split <;> exact .next hs
  · split <;> exact .next hs
  · split
    · exact .next (hadvance.endBody _).finish
    · exact .next hs

theorem seenTo_neighbourDue (hs : SeenLaw s) (t : Time) (slot : Fin 32) : SeenTo (execNeighbourDueExpiry t slot s) := by
  unfold execNeighbourDueExpiry
  dsimp only
  split
  · exact .ite (hs.of_frame (by simp)) hs
  · exact .next hs

/-- The deadlines of beacon, HUSH and survey reach the hold list through the arbiter alone (R51 to R54, R112, R175). -/
theorem seenTo_deadlines (hs : SeenLaw s) (t : Time) : SeenTo (execBeaconDueExpiry t s)
    ∧ SeenTo (execBeaconBackoffExpiry t s) ∧ SeenTo (execBeaconReplacementExpiry t s)
    ∧ SeenTo (execHushBackoffExpiry t s) ∧ SeenTo (execSurveyIntervalExpiry t s)
    ∧ SeenTo (execSurveyBackoffExpiry t s) := by
  have requested (b : Beacon) (h : HushHead) (k : Burst) :
      SeenLaw (State.finish { s.advance t with beacon := b, hushHead := h, burst := k }) :=
    SeenLaw.finish (s := { s.advance t with beacon := b, hushHead := h, burst := k }) hs
  unfold execBeaconDueExpiry execBeaconBackoffExpiry execBeaconReplacementExpiry execHushBackoffExpiry
    execSurveyIntervalExpiry execSurveyBackoffExpiry
  dsimp only
  refine ⟨?_, ?_, ?_, ?_, ?_, ?_⟩ <;> split <;> first
    | exact .next hs
    | exact .ite (requested _ _ _) hs
    | exact .ite hs hs

theorem seenTo_holdDeadline (hs : SeenLaw s) (t : Time) (i : Fin 16) : SeenTo (execHoldDeadlineExpiry t i s) := by
  unfold execHoldDeadlineExpiry
  dsimp only
  split
  · next e he => exact .ite (SeenLaw.expireHold (s := s.advance t) hs he).finish hs
  · exact .next hs

theorem seenTo_echoDeadline (hs : SeenLaw s) (t : Time) (i : Fin 16) : SeenTo (execEchoDeadlineExpiry t i s) := by
  unfold execEchoDeadlineExpiry
  dsimp only
  split
  · next e he => exact .ite (SeenLaw.expireEcho (s := s.advance t) hs he) hs
  · exact .next hs

/-- The indicator's timers reach neither list (R173). -/
theorem seenTo_indicator (hs : SeenLaw s) (t : Time) :
    SeenTo (execStretchExpiry t s) ∧ SeenTo (execIndicatorAlternation t s) := by
  unfold execStretchExpiry execIndicatorAlternation
  dsimp only
  constructor <;> split
  · exact .ite hs hs
  · exact .next hs
  · exact .ite hs hs
  · exact .next hs

theorem seenTo_configure (hs : SeenLaw s) (t : Time) (bytes : List Byte) : SeenTo (execConfigure t bytes s) := by
  unfold execConfigure
  split
  · exact .next hs
  · refine .port hs t _ fun v hv => ?_
    split
    · exact hv
    · exact (hv.acceptBytes _).ok

/-- RESTART returns both lists to empty (R186). -/
theorem seenTo_restart (hs : SeenLaw s) (t : Time) : SeenTo (execRestart t s) := by
  refine .port hs t _ fun v _ => ?_
  split
  · exact (seenLaw_resetBlocks v).of_frame ⟨rfl, rfl⟩
  · exact (seenLaw_resetBlocks v).of_frame ⟨rfl, rfl⟩

theorem seenTo_submit (hs : SeenLaw s) (t : Time) (discipline target : Byte) (dest : Address) (hops : Byte)
    (payload : List Byte) : SeenTo (execSubmit t discipline target dest hops payload s) := by
  refine .port hs t _ fun v hv => ?_
  split
  · exact hv
  · next haccepted => exact (hv.acceptSubmit (State.submitRefusal_none haccepted) ..).settle

theorem seenTo_originStatus (hs : SeenLaw s) (t : Time) (slot : Byte) : SeenTo (execOriginStatus t slot s) := by
  refine .port hs t _ fun v hv => ?_
  split <;> exact hv

theorem seenTo_fetch (hs : SeenLaw s) (t : Time) (n : Byte) : SeenTo (execFetch t n s) := by
  refine .port hs t _ fun v hv => ?_
  split <;> exact hv

theorem seenTo_release (hs : SeenLaw s) (t : Time) : SeenTo (execRelease t s) := by
  refine .port hs t _ fun v hv => ?_
  split <;> exact hv

theorem seenTo_endedEarly (hs : SeenLaw s) (t : Time) (n : Nat) : SeenTo (execTransactionEndedEarly t n s) := by
  unfold execTransactionEndedEarly
  dsimp only
  split
  · exact .ite hs hs
  all_goals exact .next hs

theorem seenTo_survey (hs : SeenLaw s) (t : Time) (count interval : BitVec 16) (rate fill : Byte) :
    SeenTo (execSurvey t count interval rate fill s) := by
  refine .port hs t _ fun v hv => ?_
  split
  · refine SeenLaw.ok (SeenLaw.finish ?_)
    exact hv
  · exact hv

theorem seenTo_stopSurvey (hs : SeenLaw s) (t : Time) : SeenTo (execStopSurvey t s) :=
  .port hs t _ fun v hv => (SeenLaw.finish (s := v.cancelSurvey.endBurst) (hv.of_frame (by simp))).ok

end Rows

/-- Every command keeps the seen list's law. -/
theorem exec_keeps_seenLaw (c : Instr) {s : State} (hs : SeenLaw s) : SeenTo (exec c s) := by
  cases c with
  | powerOn t => exact .next (seenLaw_resetBlocks _)
  | resetLine t => exact .next (seenLaw_resetBlocks _)
  | resetRelease t => exact .ite hs hs
  | configStatusPoll t status => exact seenTo_configStatusPoll hs t status
  | configLoadTimeout t => exact seenTo_configLoadTimeout hs t
  | configReadDone t driven => exact seenTo_configReadDone hs t driven
  | preambleDetected t rate unit => exact seenTo_preambleDetected hs t rate unit
  | startMark t => exact seenTo_startMark hs t
  | preambleEndNoFrame t unit => exact seenTo_preambleEndNoFrame hs t unit
  | carryHeaderComplete t header => exact .ite hs hs
  | frameLost loss => exact .ite hs hs
  | beaconReceived t header check levels => exact .receive hs t _ _ fun v hv => hv.of_frame (by simp)
  | carryReceived t header payload check levels =>
    exact .receive hs t _ _ fun v hv => (hv.of_frame (u := v.takeMargin _ _) (by simp)).takeCarry header payload
  | hushReceived t header check levels =>
    exact .receive hs t _ _ fun v hv => (hv.of_frame (u := v.takeMargin _ _) (by simp)).takeHush header
  | surveyReceived t header fill check levels => exact .receive hs t _ _ fun v hv => hv
  | busyLevelRise t level => exact .ite (SeenLaw.judgeBusy (s := s.advance t) hs).finish hs
  | ccaClear t =>
    obtain ⟨hclear, -⟩ := seenTo_phases hs t
    exact hclear
  | settlingEnd t =>
    obtain ⟨-, hsettling, -⟩ := seenTo_phases hs t
    exact hsettling
  | preambleSent t =>
    obtain ⟨-, -, hpreamble, -⟩ := seenTo_phases hs t
    exact hpreamble
  | bodyEnd t =>
    obtain ⟨-, -, -, hbody⟩ := seenTo_phases hs t
    exact hbody
  | neighbourDueExpiry t slot => exact seenTo_neighbourDue hs t slot
  | beaconDueExpiry t =>
    obtain ⟨hdue, -⟩ := seenTo_deadlines hs t
    exact hdue
  | beaconBackoffExpiry t =>
    obtain ⟨-, hbackoff, -⟩ := seenTo_deadlines hs t
    exact hbackoff
  | beaconReplacementExpiry t =>
    obtain ⟨-, -, hreplacement, -⟩ := seenTo_deadlines hs t
    exact hreplacement
  | holdDeadlineExpiry t i => exact seenTo_holdDeadline hs t i
  | echoDeadlineExpiry t i => exact seenTo_echoDeadline hs t i
  | hushBackoffExpiry t =>
    obtain ⟨-, -, -, hhush, -⟩ := seenTo_deadlines hs t
    exact hhush
  | surveyIntervalExpiry t =>
    obtain ⟨-, -, -, -, hinterval, -⟩ := seenTo_deadlines hs t
    exact hinterval
  | surveyBackoffExpiry t =>
    obtain ⟨-, -, -, -, -, hsurvey⟩ := seenTo_deadlines hs t
    exact hsurvey
  | stretchExpiry t => exact (seenTo_indicator hs t).left
  | indicatorAlternation t => exact (seenTo_indicator hs t).right
  | lselRiseAbort t => exact .next hs
  | status t => exact .port hs t _ fun v hv => hv
  | configure t bytes => exact seenTo_configure hs t bytes
  | submit t discipline target dest hops payload => exact seenTo_submit hs t discipline target dest hops payload
  | originStatus t slot => exact seenTo_originStatus hs t slot
  | fetch t n => exact seenTo_fetch hs t n
  | release t => exact seenTo_release hs t
  | readEvents t => exact .port hs t _ fun v hv => hv.of_frame (by simp)
  | clearEvents t selection => exact .port hs t _ fun v hv => hv.of_frame (by simp [State.ok])
  | setEvents t masks modes latches => exact .port hs t _ fun v hv => hv.of_frame (by simp [State.ok])
  | readTable t => exact .port hs t _ fun v hv => hv
  | readStats t clear => exact .port hs t _ fun v hv => hv
  | silence t => exact .port hs t _ fun v hv => hv.silenced.settle.ok
  | resume t => exact .port hs t _ fun v hv => (SeenLaw.finish (s := { v with station := .running }) hv).ok
  | survey t count interval rate fill => exact seenTo_survey hs t count interval rate fill
  | stopSurvey t => exact seenTo_stopSurvey hs t
  | readSurvey t clear => exact .port hs t _ fun v hv => hv
  | restart t => exact seenTo_restart hs t
  | badCommand t code => exact .ite hs hs
  | transactionEndedEarly t n => exact seenTo_endedEarly hs t n

theorem step_keeps_seenLaw : Kept SeenLaw := by
  intro s u hs h
  unfold step at h
  split at h
  · cases h
    exact hs
  · next c rest _ => exact exec_keeps_seenLaw c (s := { s with pending := rest }) hs u h

/-- Settles O54: a step keeps the law row by row, each row made of what the two lists may undergo together; an insertion
is read off its definition, by whether the list is full. -/
theorem seenLawIsKept : Obligations.SeenLawIsKept := by
  refine ⟨step_keeps_seenLaw, fun s x hroom => ?_, fun s x y before after hseen hfull hbefore hy => ?_⟩
  · rw [State.insertSeen_eq, State.evicted_of_room hroom]
  · rw [State.insertSeen_eq, State.evicted_of_full hseen hfull hbefore hy]

end Sys2Proof.Machine
end

section
namespace Sys2Proof.Machine

/-! ### Chains filled and read back (R117, R123) -/

/-- The byte of a block's 16 that stands at one place (R117). -/
theorem blockBytes_getD (p : List Byte) {k : Nat} (hk : k < 16) (default : Byte) :
    (blockBytes p).getD k default = p.getD k 0 := by
  simp [blockBytes, List.getD, hk]

/-- Past its first block a chain reads as the chain of the other blocks (R117). -/
theorem chainByte_cons_add (m : List Host.Cell) (b : Block) (chain : List Block) (i : Nat) :
    chainByte m (b :: chain) (i + 16) = chainByte m chain i := by
  simp [chainByte]

/-- Every byte of a chain of distinct blocks reads as the payload that fills it, zero beyond its end (R117). -/
theorem chainByte_fillChain {chain : List Block} : ∀ {m : List Host.Cell} {p : List Byte} {i : Nat},
    Memory.wf m → chain.Nodup → i < 16 * chain.length → chainByte (fillChain m chain p) chain i = p.getD i 0 := by
  induction chain with
  | nil => intro m p i _ _ hi; simp at hi
  | cons b rest ih =>
    intro m p i hwf hdistinct hi
    obtain ⟨hb, hrest⟩ := List.nodup_cons.1 hdistinct
    have hroom : 16 * b.1 + (blockBytes p).length ≤ 1536 := by
      have := b.2
      rw [blockBytes_length]
      omega
    have hwf' : Memory.wf (Memory.writeAll m (16 * b.1) (blockBytes p)) := Memory.writeAll_wf hwf hroom
    rw [fillChain]
    by_cases hfirst : i < 16
    · have hother (c : Block) (hc : c ∈ rest) : (16 * b.1 + i) / 16 ≠ c.1 := fun heq =>
        hb (Fin.ext (show b.1 = c.1 by omega) ▸ hc)
      calc chainByte (fillChain (Memory.writeAll m (16 * b.1) (blockBytes p)) rest (p.drop 16)) (b :: rest) i
        _ = Memory.read (fillChain (Memory.writeAll m (16 * b.1) (blockBytes p)) rest (p.drop 16)) (16 * b.1 + i) := by
            simp [chainByte, Nat.div_eq_of_lt hfirst, Nat.mod_eq_of_lt hfirst]
        _ = (blockBytes p).getD i (Memory.read m (16 * b.1 + i)) := by
            rw [read_fillChain_outside hwf' hother, Memory.read_writeAll hwf hroom, if_pos (by omega),
              Nat.add_sub_cancel_left]
        _ = p.getD i 0 := blockBytes_getD p hfirst _
    · obtain ⟨j, rfl⟩ : ∃ j, i = j + 16 := ⟨i - 16, by omega⟩
      rw [chainByte_cons_add, ih hwf' hrest (by simp only [List.length_cons] at hi; omega)]
      simp [List.getD, Nat.add_comm]

/-- A payload reads back from the chain of distinct blocks it fills (R123). -/
theorem chainBytes_fillChain {m : List Host.Cell} {chain : List Block} {p : List Byte} (hwf : Memory.wf m)
    (hdistinct : chain.Nodup) (hlength : chain.length = blocksFor p.length) :
    chainBytes (fillChain m chain p) chain p.length = p := by
  refine List.ext_getElem (by simp [chainBytes]) fun i _ hi => ?_
  have hi' : i < 16 * chain.length := by
    rw [hlength, blocksFor]
    omega
  simp [chainBytes, chainByte_fillChain hwf hdistinct hi', List.getD, hi]

/-- A payload reads back from the blocks it takes at the head of a list of distinct blocks (R120, R123). -/
theorem chainBytes_fillHead {m : List Host.Cell} {free : List Block} {p : List Byte} {n : Nat} (hwf : Memory.wf m)
    (hdistinct : free.Nodup) (hlength : p.length = n) (hroom : blocksFor n ≤ free.length) :
    chainBytes (fillChain m (free.take (blocksFor n)) p) (free.take (blocksFor n)) n = p := by
  subst hlength
  exact chainBytes_fillChain hwf (hdistinct.sublist (List.take_sublist ..)) (by simp [hroom])

/-- Bytes kept twice are kept outside both chains (R117). -/
theorem otherBytesKept_trans {s w u : State} {a b : List Block} (hw : Claim.OtherBytesKept s w a)
    (hu : Claim.OtherBytesKept w u b) : Claim.OtherBytesKept s u (a ++ b) := fun x hx =>
  (hu x fun c hc => hx c (List.mem_append_right a hc)).trans (hw x fun c hc => hx c (List.mem_append_left b hc))

/-- A chain reads as before where only blocks of another one were written (R117, R123). -/
theorem chainBytes_of_otherBytesKept {s u : State} {a b : List Block} (hu : Claim.OtherBytesKept s u b)
    (hapart : a.Disjoint b) (n : Nat) : chainBytes u.mem a n = chainBytes s.mem a n := by
  refine List.map_congr_left fun i _ => ?_
  unfold chainByte
  split
  · next c hc =>
    refine hu _ fun d hd heq => hapart (List.mem_of_getElem? hc) ?_
    have hsame : c = d := Fin.ext (by omega)
    rwa [hsame]
  · rfl

/-- No block is on the free list twice (R118). -/
theorem BlockLaw.free_nodup {s : State} (h : BlockLaw s) : s.free.Nodup :=
  (List.nodup_append.1 (h.nodup_iff.2 (List.nodup_finRange 96))).1

/-! ### An offer to the ring (R121, R147) -/

/-- From `s` to `u` the CARRY `h` with payload `p` has joined the tail of the ring, in a chain of its own from the head
of `free`, and no overflow is counted (R147). -/
def RingTook (s u : State) (h : CarryHeader) (p : List Byte) (free : List Block) : Prop :=
  ∃ d, u.ring = s.ring ++ [d]
    ∧ d = { d with
        ident := ⟨h.origin, h.serial⟩, goal := carryGoal h, sender := h.sender, hops := h.hops
        length := h.length.toNat }
    ∧ d.chain = free.take (blocksFor h.length.toNat) ∧ u.free = free.drop (blocksFor h.length.toNat)
    ∧ chainBytes u.mem d.chain h.length.toNat = p ∧ u.stats.deliveryOverflow = s.stats.deliveryOverflow

/-- From `s` to `u` the ring has refused an offer: it stands, `free` is what is free, and an overflow is counted
(R147). -/
def RingRefused (s u : State) (free : List Block) : Prop :=
  u.ring = s.ring ∧ u.free = free ∧ u.stats.deliveryOverflow = min 255 (s.stats.deliveryOverflow + 1)

/-- An offer that finds a place and blocks enough (R121, R147). -/
theorem State.offerDelivery_took {s : State} {h : CarryHeader} {p : List Byte} (hplace : s.ring.length < 8)
    (hroom : blocksFor h.length.toNat ≤ s.free.length) (hwf : Memory.wf s.mem) (hdistinct : s.free.Nodup)
    (hlength : p.length = h.length.toNat) : RingTook s (s.offerDelivery h p) h p s.free := by
  have hread := chainBytes_fillHead hwf hdistinct hlength hroom
  simp only [State.offerDelivery, State.allocate, if_pos hplace, if_pos hroom]
  exact ⟨_, rfl, rfl, rfl, rfl, hread, rfl⟩

/-- An offer that finds the ring full or too few blocks (R147). -/
theorem State.offerDelivery_refused {s : State} {h : CarryHeader} (p : List Byte)
    (hfull : 8 ≤ s.ring.length ∨ s.free.length < blocksFor h.length.toNat) :
    RingRefused s (s.offerDelivery h p) s.free ∧ (s.offerDelivery h p).mem = s.mem := by
  have hcount : s.offerDelivery h p = s.count Stats.addOverflow := by
    unfold State.offerDelivery
    split
    · next hplace => rw [State.allocate_none.2 (hfull.resolve_left (not_le.2 hplace))]
    · rfl
  rw [hcount]
  exact ⟨⟨rfl, rfl, rfl⟩, rfl⟩

/-- Taken or refused, an offer writes no block but those at the head of the free list (R120, R147). -/
theorem State.offerDelivery_otherBytesKept {s : State} (h : CarryHeader) (p : List Byte) (hwf : Memory.wf s.mem) :
    Claim.OtherBytesKept s (s.offerDelivery h p) (s.free.take (blocksFor h.length.toNat)) := by
  intro x hx
  unfold State.offerDelivery
  split
  · split
    · rfl
    · next w chain halloc =>
      obtain ⟨rfl, -, rfl, -⟩ := State.allocate_some halloc
      exact read_fillChain_outside hwf hx
  · rfl

/-! ### What the relay engine does with a first copy (R76 to R84) -/

/-- A first copy that is not held is counted at most, and not as an overflow of the ring (R83). -/
theorem State.applyArrival_counts (s : State) (h : CarryHeader) (p : List Byte) {a : Arrival} (ha : a ≠ .held) :
    s.applyArrival h p a = { s with stats := (s.applyArrival h p a).stats }
      ∧ (s.applyArrival h p a).stats.deliveryOverflow = s.stats.deliveryOverflow := by
  cases a with
  | held => exact absurd rfl ha
  | _ => exact ⟨rfl, rfl⟩

/-- A first copy that is held takes a free index in HOLDING, its payload in a chain from the head of the free list, and
one draw (R81, R82). -/
theorem State.applyArrival_holds {s : State} {h : CarryHeader} (p : List Byte) (hheld : s.arrivalOf h = .held) :
    ∃ (i : Fin 16) (e : Hold), s.hold[i] = none ∧ e.state = .holding
      ∧ e.chain = s.free.take (blocksFor h.length.toNat)
      ∧ s.applyArrival h p (s.arrivalOf h) = { s with
          free := s.free.drop (blocksFor h.length.toNat), mem := fillChain s.mem e.chain p
          hold := setAt s.hold i (some e), jitter := jitterStep s.jitter } := by
  obtain ⟨hindex, hfree⟩ := State.arrivalOf_held hheld
  obtain ⟨i, hi⟩ := Option.ne_none_iff_exists'.1 hindex
  have hlowest (n : Nat) (c : List Host.Cell) :
      (State.drawn { s with free := s.free.drop n, mem := c }).freeIndex = some i :=
    (State.freeIndex_congr rfl).trans hi
  simp only [hheld, State.applyArrival, State.holdArrival, State.allocate, if_pos hfree, State.addHold_at (hlowest _ _)]
  exact ⟨i, _, State.freeIndex_some hi, rfl, rfl, rfl⟩

/-- The relay engine brings no entry to READY (R82). -/
theorem State.applyArrival_ready {s : State} {h : CarryHeader} {p : List Byte} {i : Fin 16} {e : Hold}
    (he : (s.applyArrival h p (s.arrivalOf h)).hold[i] = some e) (hready : e.state = .ready) : s.hold[i] = some e := by
  by_cases hheld : s.arrivalOf h = .held
  · obtain ⟨j, f, -, hf, -, happly⟩ := State.applyArrival_holds p hheld
    rw [happly, setAt_get] at he
    split at he
    · cases he
      rw [hf] at hready
      cases hready
    · exact he
  · rwa [s.applyArrival_hold h p hheld] at he

/-- A first copy raises no request (R15, R82). -/
theorem quiet_relayFirstCopy {s : State} (hquiet : Claim.Quiet s) (h : CarryHeader) (p : List Byte) :
    Claim.Quiet (s.relayFirstCopy h p) := by
  intro hrun htx
  have hnone : s.nextRequest = none := hquiet (by simpa using hrun) (by simpa using htx)
  have hhold : (s.relayFirstCopy h p).hold = (s.applyArrival h p (s.arrivalOf h)).hold := by
    simp only [State.relayFirstCopy, State.insertSeen_hold, apply_ite State.hold]
    simp
  refine State.nextRequest_none_of_fewer hnone (by simp) (by simp) (fun i e he hready => ?_) (by simp)
  rw [hhold] at he
  exact State.applyArrival_ready he hready

/-! ### A first copy for the ring (R121, R144, R147) -/

/-- What passes the delivery test is SPREAD, so no anchor's own (R106, R144). -/
theorem State.forOwnIndex_of_deliveryTest {s : State} {h : CarryHeader} (htest : s.deliveryTest h = true) :
    s.forOwnIndex (carryGoal h) = false := by
  unfold State.deliveryTest at htest
  split at htest
  · cases htest
  · next zone hgoal => rw [hgoal]; rfl

/-- When the seen list takes a good frame, the blocks' stores stand as before it (R13). -/
theorem heard_stores (s : State) (t : Time) (sender : Address) (levels : List Int) :
    let v := Claim.heard s t sender levels
    v.ring = s.ring ∧ v.free = s.free ∧ v.mem = s.mem ∧ v.hold = s.hold
      ∧ v.stats.deliveryOverflow = s.stats.deliveryOverflow := by
  simp [Claim.heard, State.takeGood, Stats.addGood]

/-- When the seen list takes a good frame, the lists and parameters it is judged by stand as before it (R13). -/
theorem heard_judges (s : State) (t : Time) (sender : Address) (levels : List Int) :
    let v := Claim.heard s t sender levels
    v.findSeen = s.findSeen ∧ v.own = s.own ∧ v.deliveryTest = s.deliveryTest := by
  have hrecord : (Claim.heard s t sender levels).record = s.record := by simp [Claim.heard, State.takeGood]
  have hseen : (Claim.heard s t sender levels).seen = s.seen := by simp [Claim.heard, State.takeGood]
  have hcfg : (Claim.heard s t sender levels).cfg = s.cfg := by rw [State.cfg, hrecord]; rfl
  refine ⟨funext fun k => ?_, ?_, funext fun h => ?_⟩
  · rw [State.findSeen, hseen]; rfl
  · rw [State.own, hcfg]; rfl
  · unfold State.deliveryTest
    rw [State.own, hcfg]
    rfl

theorem quiet_heard {s : State} (hquiet : Claim.Quiet s) (t : Time) (sender : Address) (levels : List Int) :
    Claim.Quiet (Claim.heard s t sender levels) := by
  intro hrun htx
  have hnone : s.nextRequest = none :=
    hquiet (by simpa [Claim.heard, State.takeGood] using hrun) (by simpa [Claim.heard, State.takeGood] using htx)
  refine State.nextRequest_none_of_fewer hnone ?_ ?_ ?_ ?_ <;> simp +contextual [Claim.heard, State.takeGood]

/-- A first copy not for the station's own index is the relay engine's and the ring's, and no request is granted after
it (R13, R65, R76). -/
theorem exec_carryReceived_firstCopy {t : Time} {h : CarryHeader} {p : List Byte} {check : BitVec 16}
    {levels : List Int} {s : State} (hfirst : Claim.FirstCopy s h p check levels) (hquiet : Claim.Quiet s)
    (hindex : (Claim.heard s t h.sender levels).forOwnIndex (carryGoal h) = false) :
    exec (.carryReceived t h p check levels) s
      = .next ((Claim.heard s t h.sender levels).relayFirstCopy h p).settle := by
  obtain ⟨⟨rate, hrx⟩, hgood, hsender, horigin, -, hnew⟩ := hfirst
  obtain ⟨hseen, hown, -⟩ := heard_judges s t h.sender levels
  have hrx' : (s.advance t).rx.isReceiving = true := by rw [State.advance_rx, hrx]; rfl
  have htake : (Claim.heard s t h.sender levels).takeCarry h p
      = (Claim.heard s t h.sender levels).relayFirstCopy h p := by
    rw [State.takeCarry, hseen, hnew]
    dsimp only
    rw [if_neg (by rwa [hown]), if_neg (by simp [hindex])]
  calc exec (.carryReceived t h p check levels) s
    _ = .next ((Claim.heard s t h.sender levels).takeCarry h p).finish :=
        congrArg _ (State.receive_good hrx' hgood hsender _)
    _ = .next ((Claim.heard s t h.sender levels).relayFirstCopy h p).settle := by
        rw [htake, State.finish_of_quiet (quiet_relayFirstCopy (quiet_heard hquiet t h.sender levels) h p)]

/-- A first copy that passes the delivery test is offered to the ring after the relay engine has done with it (R121). -/
theorem exec_carryReceived_offered {t : Time} {h : CarryHeader} {p : List Byte} {check : BitVec 16}
    {levels : List Int} {s : State} (hfirst : Claim.FirstCopy s h p check levels) (hquiet : Claim.Quiet s)
    (htest : s.deliveryTest h = true) :
    let v := Claim.heard s t h.sender levels
    ∃ x, exec (.carryReceived t h p check levels) s
      = .next (((v.applyArrival h p (v.arrivalOf h)).offerDelivery h p).insertSeen x).settle := by
  obtain ⟨-, -, hsame⟩ := heard_judges s t h.sender levels
  have htest' : (Claim.heard s t h.sender levels).deliveryTest h = true := by rwa [hsame]
  have hexec := exec_carryReceived_firstCopy (t := t) hfirst hquiet (State.forOwnIndex_of_deliveryTest htest')
  simp only [State.relayFirstCopy, if_pos htest'] at hexec
  exact ⟨_, hexec⟩

/-- The relay engine, from `s` to `w`, leaves to the ring its entries and its count, the free list `free` and the bytes
`mem` (R121). -/
structure LeftToRing (s w : State) (free : List Block) (mem : List Host.Cell) : Prop where
  ring : w.ring = s.ring
  count : w.stats.deliveryOverflow = s.stats.deliveryOverflow
  free : w.free = free
  mem : w.mem = mem

/-- A first copy that is not held leaves every block to the ring (R83). -/
theorem leftToRing_of_not_held {s v : State} {t : Time} {levels : List Int} (h : CarryHeader) (p : List Byte)
    (hv : Claim.heard s t h.sender levels = v) (hnot : v.arrivalOf h ≠ .held) :
    LeftToRing s (v.applyArrival h p (v.arrivalOf h)) s.free s.mem := by
  subst hv
  obtain ⟨hring, hfree, hmem, -, hcount⟩ := heard_stores s t h.sender levels
  obtain ⟨hrelay, hcounted⟩ := State.applyArrival_counts _ h p hnot
  refine ⟨?_, hcounted.trans hcount, ?_, ?_⟩ <;> rw [hrelay] <;> assumption

/-- A first copy that is held leaves to the ring the blocks behind its own chain (R81). -/
theorem leftToRing_of_held {s v : State} {t : Time} {levels : List Int} {h : CarryHeader} (p : List Byte)
    (hv : Claim.heard s t h.sender levels = v) (hheld : v.arrivalOf h = .held) :
    let n := blocksFor h.length.toNat
    let w := v.applyArrival h p (v.arrivalOf h)
    n ≤ s.free.length ∧ LeftToRing s w (s.free.drop n) (fillChain s.mem (s.free.take n) p)
      ∧ ∃ (i : Fin 16) (e : Hold), s.hold[i] = none ∧ w.hold = setAt s.hold i (some e)
        ∧ e.chain = s.free.take n := by
  subst hv
  obtain ⟨hring, hfree, hmem, hhold, hcount⟩ := heard_stores s t h.sender levels
  have hroom := (State.arrivalOf_held hheld).2
  obtain ⟨i, e, hi, -, hchain, hrelay⟩ := State.applyArrival_holds p hheld
  rw [hhold] at hi
  rw [hfree] at hchain hroom
  dsimp only
  rw [hrelay, hchain, hfree, hmem, hhold]
  exact ⟨hroom, ⟨hring, hcount, rfl, rfl⟩, i, e, hi, rfl, hchain⟩

section Offer
variable {s w : State} {h : CarryHeader} {p : List Byte} {free : List Block} {mem : List Host.Cell}

/-- What the relay engine leaves is taken where it is enough (R121, R147). -/
theorem LeftToRing.took (hleft : LeftToRing s w free mem) (hplace : s.ring.length < 8)
    (hroom : blocksFor h.length.toNat ≤ free.length) (hwf : Memory.wf mem) (hdistinct : free.Nodup)
    (hlength : p.length = h.length.toNat) : RingTook s (w.offerDelivery h p) h p free := by
  obtain ⟨hring, hcount, rfl, rfl⟩ := hleft
  obtain ⟨d, hjoined, hd, hchain, hfree, hread, hkept⟩ :=
    State.offerDelivery_took (hring ▸ hplace) hroom hwf hdistinct hlength
  exact ⟨d, hring ▸ hjoined, hd, hchain, hfree, hread, hkept.trans hcount⟩

/-- What the relay engine leaves is refused where it is not enough (R147). -/
theorem LeftToRing.refused (hleft : LeftToRing s w free mem) (p : List Byte)
    (hfull : 8 ≤ s.ring.length ∨ free.length < blocksFor h.length.toNat) :
    RingRefused s (w.offerDelivery h p) free ∧ (w.offerDelivery h p).mem = mem := by
  obtain ⟨hring, hcount, rfl, rfl⟩ := hleft
  obtain ⟨⟨hstands, hfree, hcounted⟩, hmem⟩ := State.offerDelivery_refused p (hring ▸ hfull)
  exact ⟨⟨hstands.trans hring, hfree, hcount ▸ hcounted⟩, hmem⟩

/-- Of what the relay engine leaves only blocks at the head of the free list are written (R120, R147). -/
theorem LeftToRing.otherBytesKept (hleft : LeftToRing s w free mem) (h : CarryHeader) (p : List Byte)
    (hwf : Memory.wf mem) :
    Claim.OtherBytesKept w (w.offerDelivery h p) (free.take (blocksFor h.length.toNat)) := by
  obtain ⟨-, -, rfl, rfl⟩ := hleft
  exact State.offerDelivery_otherBytesKept h p hwf

end Offer

/-- The relay chain keeps its payload, and what stands behind it in the free list is the ring's (R81, R121). -/
theorem offer_behind_relay_chain {s w : State} {h : CarryHeader} {p : List Byte}
    (hlength : p.length = h.length.toNat) (hrelay : blocksFor h.length.toNat ≤ s.free.length)
    (hdistinct : s.free.Nodup) (hform : StoreForm s)
    (hleft : LeftToRing s w (s.free.drop (blocksFor h.length.toNat))
      (fillChain s.mem (s.free.take (blocksFor h.length.toNat)) p)) :
    let n := blocksFor h.length.toNat
    let u := w.offerDelivery h p
    chainBytes u.mem (s.free.take n) h.length.toNat = p
      ∧ (s.ring.length < 8 → n + n ≤ s.free.length →
        RingTook s u h p (s.free.drop n) ∧ Claim.OtherBytesKept s u (s.free.take (n + n)))
      ∧ (8 ≤ s.ring.length ∨ s.free.length < n + n →
        RingRefused s u (s.free.drop n) ∧ Claim.OtherBytesKept s u (s.free.take n)) := by
  intro n u
  have hwf := fillChain_wf (chain := s.free.take n) (p := p) hform
  have hwritten : Claim.OtherBytesKept s w (s.free.take n) := fun y hy =>
    (congrArg (Memory.read · y) hleft.mem).trans (read_fillChain_outside hform hy)
  have hoffer := hleft.otherBytesKept h p hwf
  have hapart := List.disjoint_of_subset_right (List.take_subset n _)
    (List.disjoint_take_drop hdistinct (le_refl n))
  refine ⟨?_, fun hplace hroom => ⟨?_, ?_⟩, fun hfull => ?_⟩
  · rw [chainBytes_of_otherBytesKept hoffer hapart, hleft.mem]
    exact chainBytes_fillHead hform hdistinct hlength hrelay
  · exact hleft.took hplace (by rw [List.length_drop]; omega) hwf (hdistinct.sublist (List.drop_sublist ..)) hlength
  · rw [List.take_add]
    exact otherBytesKept_trans hwritten hoffer
  · obtain ⟨hrefused, hmem⟩ := hleft.refused (h := h) p (by rw [List.length_drop]; omega)
    refine ⟨hrefused, fun y hy => ?_⟩
    rw [hmem]
    exact read_fillChain_outside hform hy

/-- Settles O19: the relay engine leaves the ring its place and its count, and of the free list what stands behind the
chain it takes for itself; the ring is then offered the rest, and what it fills is none of the relay's blocks. -/
theorem deliveryJoinsTheRing : Obligations.DeliveryJoinsTheRing := by
  intro t h p check levels s hfirst hquiet hblock hform htest n joins refused
  obtain ⟨x, hexec⟩ := exec_carryReceived_offered (t := t) hfirst hquiet htest
  obtain ⟨-, -, -, -, hlength, -⟩ := hfirst
  have hdistinct := hblock.free_nodup
  generalize hv : Claim.heard s t h.sender levels = v at hexec ⊢
  refine ⟨fun hnot => ?_, fun hheld => ?_⟩
  · have hleft := leftToRing_of_not_held h p hv hnot
    generalize v.applyArrival h p (v.arrivalOf h) = w at hexec hleft
    refine ⟨fun hplace hroom => ⟨_, hexec, hleft.took hplace hroom hform hdistinct hlength, fun y hy => ?_⟩,
      fun hfull => ⟨_, hexec, hleft.refused p hfull⟩⟩
    exact (hleft.otherBytesKept h p hform y hy).trans (congrArg (Memory.read · y) hleft.mem)
  · obtain ⟨hrelay, hleft, i, e, hi, hhold, hchain⟩ := leftToRing_of_held p hv hheld
    generalize v.applyArrival h p (v.arrivalOf h) = w at hexec hleft hhold
    obtain ⟨hread, htook, hrefused⟩ := offer_behind_relay_chain hlength hrelay hdistinct hform hleft
    have htaken : (w.offerDelivery h p).hold = setAt s.hold i (some e) := by simpa using hhold
    exact ⟨_, i, e, hexec, hi, htaken, hchain, hchain ▸ hread, htook, hrefused⟩

end Sys2Proof.Machine
end

section
namespace Sys2Proof.Machine

/-! ### A good CARRY at the seen list (R13, R65) -/

/-- A known sender's margin writes the table and the ranks formed from it, and tells of them (R35, R37, R45). -/
theorem State.takeMargin_writes (s : State) (a : Address) (margin : Nat) : ∃ table ranks statuses,
    s.takeMargin a margin = { s with table := table, ranks := ranks, statuses := statuses } := by
  unfold State.takeMargin
  repeat' split
  case' isFalse => rw [State.recompute_eq]
  all_goals exact ⟨_, _, _, rfl⟩

/-- When the seen list takes a good frame, it is counted, the receiver SEARCHING, and the table done with it; nothing
else has changed (R12, R13). -/
theorem heard_writes (s : State) (t : Time) (sender : Address) (levels : List Int) : ∃ table ranks statuses,
    Claim.heard s t sender levels = { s with
      now := max s.now t, rx := .searching, stats := Claim.good s.stats
      table := table, ranks := ranks, statuses := statuses } :=
  (s.advance t).takeGood.takeMargin_writes sender (marginOf levels)

/-- What the seen list finds of the state before a good frame: counters but for frames_good, HUSH queue and parameters
as they were, and the receiver without a frame (R12, R13). -/
theorem heard_leaves (s : State) (t : Time) (sender : Address) (levels : List Int) :
    let v := Claim.heard s t sender levels
    v.stats = Claim.good s.stats ∧ v.hushQueue = s.hushQueue ∧ v.cfg = s.cfg ∧ v.rx = .searching := by
  obtain ⟨table, ranks, statuses, hv⟩ := heard_writes s t sender levels
  rw [hv]
  exact ⟨rfl, rfl, rfl, rfl⟩

/-- A good CARRY from another station goes to the seen list once the table has heard it, and the event ends (R13). -/
theorem exec_carryReceived_good {t : Time} {rate : Rate} {h : CarryHeader} {p : List Byte} {check : BitVec 16}
    {levels : List Int} {s : State} (hrx : s.rx = .receiving rate) (hgood : carryBad h p check levels = false)
    (hother : h.sender ≠ s.own) : exec (.carryReceived t h p check levels) s
      = .next ((Claim.heard s t h.sender levels).takeCarry h p).finish := by
  have hrx' : (s.advance t).rx.isReceiving = true := by rw [State.advance_rx, hrx]; rfl
  exact congrArg _ (State.receive_good hrx' hgood hother _)

/-- What is for the own index (R106). -/
theorem State.forOwnIndex_iff (s : State) (goal : Goal) :
    s.forOwnIndex goal = true ↔ s.cfg.role = .anchor ∧ goal = .upward s.cfg.anchorIndex := by
  unfold State.forOwnIndex State.ownIndex
  cases goal with
  | spread zone => simp
  | upward a => cases s.cfg.role <;> simp

/-! ### Entries of the seen list (R59, R60) -/

/-- The entry found for an identity after all entries have changed otherwise than in their identity (R60). -/
theorem State.findSeen_map {s u : State} {g : Seen → Seen} (hseen : u.seen = s.seen.map g)
    (hg : ∀ x, (g x).ident = x.ident) (k : Ident) : u.findSeen k = (s.findSeen k).map g := by
  simp only [State.findSeen, hseen, List.find?_map, Function.comp_def, hg]

/-- A removal changes the entry found for an identity in its status alone, and a settled one not at all (R61). -/
theorem State.findSeen_removeHold {s : State} {k : Ident} {x : Seen} (hx : s.findSeen k = some x) (i : Fin 16)
    (c : Ending) : ∃ status, (x.status ≠ .pending → status = x.status)
      ∧ (s.removeHold i c).findSeen k = some { x with status := status } := by
  cases he : s.hold[i] with
  | none => exact ⟨x.status, fun _ => rfl, by rw [State.removeHold_none he, hx]⟩
  | some e =>
    obtain ⟨-, -, hseen, -⟩ := State.removeHold_some (k := c) he
    rw [State.findSeen_map hseen (fun y => by split <;> simp) k, hx, Option.map_some]
    unfold Seen.settleAs
    repeat' split
    · next hpending => exact ⟨_, fun hsettled => absurd hpending hsettled, rfl⟩
    all_goals exact ⟨x.status, fun _ => rfl, rfl⟩

/-- The entry that stands for a first copy (R59). -/
theorem firstEntry_eq (h : CarryHeader) (status : SeenStatus) (hushes : Nat) : Claim.firstEntry h status hushes
    = { ident := carryIdent h, goal := carryGoal h, status := status, extraCopies := 0, bestRank := carryRank h
        hushCount := hushes } := by
  cases hd : h.discipline <;> simp [Claim.firstEntry, carryIdent, carryRank, hd]

/-! ### The HUSH queue (R111) -/

/-- An offer to the HUSH queue joins its tail, as its head in STANDING where it was empty, or is lost and counted where
the queue holds 4 (R111, R112). -/
theorem State.offerHush_eq (s : State) (k : Ident) : s.offerHush k = { s with
    hushQueue := if s.hushQueue.length < 4 then s.hushQueue ++ [k] else s.hushQueue
    hushHead := if s.hushQueue = [] then .standing else s.hushHead
    stats := { s.stats with hushLost :=
      if s.hushQueue.length < 4 then s.stats.hushLost else min 255 (s.stats.hushLost + 1) } } := by
  unfold State.offerHush
  by_cases hroom : s.hushQueue.length < 4
  · simp only [if_pos hroom]
  · have hne : s.hushQueue ≠ [] := fun hq => hroom (by simp [hq])
    simp only [if_neg hroom, if_neg hne]
    rfl

end Sys2Proof.Machine
end

section
namespace Sys2Proof.Machine

/-! ### The end of an event in which the HUSH queue alone may request (R15, R111) -/

/-- Where nothing but the HUSH queue's head may request, the end of an event writes the head's state, the transmitter
and the statuses (R15, R169). -/
theorem finish_of_hush_alone {w : State} (hrx : w.rx.busy = false)
    (halone : w.station = .running → w.tx = none → ∀ o, w.nextRequest = some o → o = .hush) :
    ∃ hushHead tx statuses, w.finish = { w with hushHead := hushHead, tx := tx, statuses := statuses } := by
  rw [State.finish]
  rcases State.arbitrate_cases hrx with ⟨-, hquiet⟩ | ⟨o, hrun, htx, ho, hgranted⟩
  · rw [hquiet]
    exact ⟨_, _, _, rfl⟩
  · rw [hgranted, halone hrun htx o ho]
    exact ⟨_, _, _, rfl⟩

/-- An anchor's first copy raises no request but the HUSH queue's (R15, R111). -/
theorem anchorFirstCopy_requests {v : State} (hquiet : Claim.Quiet v) (h : CarryHeader) (p : List Byte) :
    let w := v.anchorFirstCopy h p
    w.station = .running → w.tx = none → ∀ o, w.nextRequest = some o → o = .hush := by
  intro w hrun htx o ho
  obtain ⟨hbeacon, -, hready, hburst⟩ :=
    v.nextRequest_eq_none_iff.1 (hquiet (by simpa [w] using hrun) (by simpa [w] using htx))
  have hstands := State.nextRequest_stands ho
  cases o with
  | hush => rfl
  | beacon =>
    obtain ⟨r, hr⟩ := hstands
    exact absurd (by simpa [w] using hr) (hbeacon r)
  | hold i =>
    obtain ⟨e, he, hs⟩ := hstands
    exact absurd hs (hready i e (by simpa [w] using he))
  | survey => exact absurd (by simpa [w] using hstands) hburst

/-! ### A first copy for the own index (R106 to R109, R111, R147) -/

/-- An offer that finds a place and blocks enough joins the ring in a chain from the head of the free list (R147). -/
theorem State.offerDelivery_of_room {s : State} {h : CarryHeader} (p : List Byte) (hplace : s.ring.length < 8)
    (hroom : blocksFor h.length.toNat ≤ s.free.length) : s.offerDelivery h p = { s with
      free := s.free.drop (blocksFor h.length.toNat)
      mem := fillChain s.mem (s.free.take (blocksFor h.length.toNat)) p
      ring := s.ring ++ [{ ident := carryIdent h, goal := carryGoal h, sender := h.sender, hops := h.hops
                           length := h.length.toNat, chain := s.free.take (blocksFor h.length.toNat) }] } := by
  simp only [State.offerDelivery, State.allocate, if_pos hplace, if_pos hroom]

/-- An offer that finds the ring full or too few blocks is counted, and no more (R147). -/
theorem State.offerDelivery_of_full {s : State} {h : CarryHeader} (p : List Byte)
    (hfull : 8 ≤ s.ring.length ∨ s.free.length < blocksFor h.length.toNat) :
    s.offerDelivery h p = s.count Stats.addOverflow := by
  unfold State.offerDelivery
  split
  · next hplace => rw [State.allocate_none.2 (hfull.resolve_left (not_le.2 hplace))]
  · rfl

/-- The ring takes what finds a place and blocks enough (R147). -/
theorem State.ringTakes_iff (s : State) (n : Nat) :
    s.ringTakes n = true ↔ s.ring.length < 8 ∧ blocksFor n ≤ s.free.length := by
  simp [State.ringTakes]

/-- An anchor's first copy that the ring takes (R107, R108). -/
theorem State.anchorFirstCopy_taken {s : State} {h : CarryHeader} (p : List Byte) (hplace : s.ring.length < 8)
    (hroom : blocksFor h.length.toNat ≤ s.free.length) : s.anchorFirstCopy h p
      = ((s.offerDelivery h p).insertSeen (Claim.firstEntry h .delivered 1)).offerHush (carryIdent h) := by
  rw [State.anchorFirstCopy, if_pos ((s.ringTakes_iff _).2 ⟨hplace, hroom⟩), firstEntry_eq]

/-- An anchor's first copy that the ring refuses is counted, and no more (R109). -/
theorem State.anchorFirstCopy_refused {s : State} {h : CarryHeader} (p : List Byte)
    (hfull : 8 ≤ s.ring.length ∨ s.free.length < blocksFor h.length.toNat) :
    s.anchorFirstCopy h p = s.count Stats.addOverflow := by
  have hnot : ¬s.ringTakes h.length.toNat = true := fun htakes => by
    obtain ⟨hplace, hroom⟩ := (s.ringTakes_iff _).1 htakes
    omega
  rw [State.anchorFirstCopy, if_neg hnot, State.offerDelivery_of_full p hfull]

/-- The end of the event of an anchor's first copy that the ring takes (R15, R107, R108, R111). -/
theorem anchorFirstCopy_taken_finish {v : State} {h : CarryHeader} (p : List Byte) (hrx : v.rx.busy = false)
    (hquiet : Claim.Quiet v) (hplace : v.ring.length < 8) (hroom : blocksFor h.length.toNat ≤ v.free.length) :
    ∃ hushHead tx statuses, (v.anchorFirstCopy h p).finish = { v with
      free := v.free.drop (blocksFor h.length.toNat)
      mem := fillChain v.mem (v.free.take (blocksFor h.length.toNat)) p
      ring := v.ring ++ [{ ident := carryIdent h, goal := carryGoal h, sender := h.sender, hops := h.hops
                           length := h.length.toNat, chain := v.free.take (blocksFor h.length.toNat) }]
      seen := (v.insertSeen (Claim.firstEntry h .delivered 1)).seen
      hushQueue := if v.hushQueue.length < 4 then v.hushQueue ++ [carryIdent h] else v.hushQueue
      stats := { v.stats with hushLost :=
        if v.hushQueue.length < 4 then v.stats.hushLost else min 255 (v.stats.hushLost + 1) }
      hushHead := hushHead, tx := tx, statuses := statuses } := by
  obtain ⟨hushHead, tx, statuses, hu⟩ := finish_of_hush_alone (by simpa using hrx) (anchorFirstCopy_requests hquiet h p)
  refine ⟨hushHead, tx, statuses, hu.trans ?_⟩
  rw [State.anchorFirstCopy_taken p hplace hroom, State.offerDelivery_of_room p hplace hroom, State.offerHush_eq]
  rfl

/-- The end of the event of an anchor's first copy that the ring refuses (R109). -/
theorem anchorFirstCopy_refused_finish {v : State} {h : CarryHeader} (p : List Byte) (hquiet : Claim.Quiet v)
    (hfull : 8 ≤ v.ring.length ∨ v.free.length < blocksFor h.length.toNat) :
    (v.anchorFirstCopy h p).finish = (v.count Stats.addOverflow).settle := by
  rw [State.anchorFirstCopy_refused p hfull]
  exact State.finish_of_quiet hquiet

/-- A first copy for the own index at an anchor is the anchor responder's (R65, R107). -/
theorem exec_carryReceived_anchor {t : Time} {h : CarryHeader} {p : List Byte} {check : BitVec 16} {levels : List Int}
    {s : State} (hfirst : Claim.FirstCopy s h p check levels) (hindex : s.forOwnIndex (carryGoal h) = true) :
    exec (.carryReceived t h p check levels) s
      = .next ((Claim.heard s t h.sender levels).anchorFirstCopy h p).finish := by
  obtain ⟨⟨rate, hrx⟩, hgood, hsender, horigin, -, hnew⟩ := hfirst
  obtain ⟨hseen, hown, -⟩ := heard_judges s t h.sender levels
  obtain ⟨-, -, hcfg, -⟩ := heard_leaves s t h.sender levels
  have hindex' : (Claim.heard s t h.sender levels).forOwnIndex (carryGoal h) = true := by
    rwa [State.forOwnIndex_iff, hcfg, ← State.forOwnIndex_iff]
  rw [exec_carryReceived_good hrx hgood hsender, State.takeCarry, hseen, hnew]
  dsimp only
  rw [if_neg (by rwa [hown]), if_pos hindex']

/-- Settles O20: the seen list hands the copy to the anchor responder, whose offer the ring takes or refuses; at the end
of the event the HUSH queue's head alone may be granted. -/
theorem anchorDeliversForItsOwnIndex : Obligations.AnchorDeliversForItsOwnIndex := by
  intro t h p check levels s hfirst hquiet hrole hdiscipline htarget v
  have hgoal : carryGoal h = .upward s.cfg.anchorIndex := by
    simp only [carryGoal, goalOf, hdiscipline]
    exact congrArg _ (Fin.ext (show h.target.toNat % 4 = s.cfg.anchorIndex.1 by omega))
  have hexec : exec (.carryReceived t h p check levels) s = .next (v.anchorFirstCopy h p).finish :=
    exec_carryReceived_anchor hfirst ((s.forOwnIndex_iff _).2 ⟨hrole, hgoal⟩)
  have hquiet' : Claim.Quiet v := quiet_heard hquiet t h.sender levels
  obtain ⟨-, -, -, -, hlength, -⟩ := hfirst
  obtain ⟨table, ranks, statuses, hv⟩ : ∃ table ranks statuses, v = { s with
      now := max s.now t, rx := .searching, stats := Claim.good s.stats
      table := table, ranks := ranks, statuses := statuses } := heard_writes s t h.sender levels
  rw [hexec]
  clear_value v
  subst hv
  by_cases htakes : s.ring.length < 8 ∧ blocksFor h.length.toNat ≤ s.free.length
  · obtain ⟨hplace, hroom⟩ := htakes
    obtain ⟨hushHead, tx, settled, hu⟩ := anchorFirstCopy_taken_finish p rfl hquiet' hplace hroom
    rw [hu]
    refine ⟨_, rfl, rfl, rfl, rfl, rfl, fun _ _ => ⟨⟨_, rfl, ?_, rfl, fun hblock hform => ⟨?_, ?_⟩⟩, rfl, rfl, rfl,
      rfl⟩, fun hfull => ?_⟩
    · rw [hgoal]; rfl
    · exact chainBytes_fillHead hform hblock.free_nodup hlength hroom
    · exact fun x hx => read_fillChain_outside hform hx
    · exact absurd hfull (by simp only [blocksFor] at hroom; omega)
  · have hfull : 8 ≤ s.ring.length ∨ s.free.length < blocksFor h.length.toNat := by omega
    rw [anchorFirstCopy_refused_finish p hquiet' hfull]
    exact ⟨_, rfl, rfl, rfl, rfl, rfl, fun hplace hroom => absurd ⟨hplace, hroom⟩ htakes,
      fun _ => ⟨rfl, rfl, rfl, rfl, rfl, rfl, rfl, rfl, rfl⟩⟩

end Sys2Proof.Machine
end

section
namespace Sys2Proof.Machine

/-! ### Copies (R67, R68, R110) -/

/-- The lower of the best rank so far, if any, and a rank heard (R67). -/
def lowerRank (best : Option Rank) (heard : Rank) : Rank :=
  match best with
  | some b => if heard < b then heard else b
  | none => heard

/-- A copy raises the extra copies and, UPWARD for the entry's anchor, lowers the best rank (R67). -/
theorem Seen.heardCopy_spec (x : Seen) (h : CarryHeader) : x.heardCopy (carryGoal h) (carryRank h) = { x with
    extraCopies := min 7 (x.extraCopies + 1)
    bestRank := if x.goal = carryGoal h ∧ h.discipline = .upward then
        some (lowerRank x.bestRank h.senderRank) else x.bestRank } := by
  cases hd : h.discipline with
  | spread => simp [Seen.heardCopy, carryGoal, carryRank, goalOf, hd, satInc]
  | upward =>
    by_cases hgoal : x.goal = carryGoal h
    · cases hb : x.bestRank <;>
        simp_all [Seen.heardCopy, carryGoal, carryRank, goalOf, satInc, lowerRank, BitVec.lt_def]
    · simp_all [Seen.heardCopy, carryGoal, carryRank, goalOf, satInc]

/-- The hold entry that a copy judges stands or is removed (R86, R87, R89). -/
theorem State.judgeCopy_cases (s : State) (i : Fin 16) (rank : Option Rank) (copies : Nat) :
    s.judgeCopy i rank copies = s ∨ ∃ c, s.judgeCopy i rank copies = s.removeHold i c := by
  unfold State.judgeCopy
  repeat' split
  all_goals first
    | exact .inl rfl
    | exact .inr ⟨_, rfl⟩

/-- The state after a copy is counted in its seen entry (R67). -/
def State.copied (s : State) (e : Seen) (h : CarryHeader) : State :=
  s.updateSeen e.ident (Seen.heardCopy (carryGoal h) (carryRank h))

/-- A copy asks for one more HUSH: its identity is DELIVERED, of the own index, and its hush count below 2 (R110). -/
def AsksHush (s : State) (e : Seen) (h : CarryHeader) : Prop :=
  e.goal = carryGoal h ∧ e.status = .delivered ∧ s.forOwnIndex e.goal = true ∧ e.hushCount < 2

/-- One more HUSH is offered and the hush count raised (R110). -/
theorem State.takeCopy_asks {s : State} {e : Seen} {h : CarryHeader} (hasks : AsksHush s e h) : s.takeCopy e h
    = ((s.copied e h).updateSeen e.ident fun x => { x with hushCount := x.hushCount + 1 }).offerHush e.ident := by
  obtain ⟨hgoal, hstatus, hown, hcount⟩ := hasks
  simp only [State.takeCopy, if_pos hgoal, hstatus, hown, hcount, and_self, if_true]
  rfl

/-- Any other copy is counted and at most judges the hold entry of a PENDING identity (R67, R68). -/
theorem State.takeCopy_other {s : State} {e : Seen} {h : CarryHeader} (hnot : ¬AsksHush s e h) :
    s.takeCopy e h = s.copied e h
      ∨ e.status = .pending ∧ ∃ i c, s.takeCopy e h = (s.copied e h).removeHold i c := by
  by_cases hgoal : e.goal = carryGoal h
  · cases hstatus : e.status with
    | pending =>
      simp only [State.takeCopy, if_pos hgoal, hstatus]
      split
      · next i _ =>
        rcases (s.copied e h).judgeCopy_cases i (carryRank h) (satInc 7 e.extraCopies) with hsame | ⟨c, hc⟩
        · exact .inl hsame
        · exact .inr ⟨trivial, i, c, hc⟩
      · exact .inl rfl
    | delivered =>
      have hignored : ¬(s.forOwnIndex e.goal = true ∧ e.hushCount < 2) := fun ⟨hown, hcount⟩ =>
        hnot ⟨hgoal, hstatus, hown, hcount⟩
      simp only [State.takeCopy, if_pos hgoal, hstatus, if_neg hignored]
      exact .inl rfl
    | _ =>
      simp only [State.takeCopy, if_pos hgoal, hstatus]
      exact .inl rfl
  · simp only [State.takeCopy, if_neg hgoal]
    exact .inl rfl

/-- A change of one identity's entry that keeps the identity is what is found of it then (R60). -/
theorem State.findSeen_updateSeen {s : State} {k : Ident} {x : Seen} (hx : s.findSeen k = some x) {f : Seen → Seen}
    (hf : ∀ y, (f y).ident = y.ident) : (s.updateSeen k f).findSeen k = some (f x) := by
  rw [State.findSeen_map (s := s) (g := fun y => if y.ident = k then f y else y) rfl (fun y => by split <;> simp [hf]),
    hx, Option.map_some, if_pos (State.findSeen_some hx).2]

/-- No ending of a hold entry is counted as a HUSH lost (R75, R111). -/
theorem State.removeHold_hushLost (s : State) (i : Fin 16) (c : Ending) :
    (s.removeHold i c).stats.hushLost = s.stats.hushLost := by
  cases he : s.hold[i] with
  | none => rw [State.removeHold_none he]
  | some e =>
    rw [(State.removeHold_some he).2.2.2]
    cases c <;> rfl

section Copy

variable {s : State} {e : Seen} {h : CarryHeader}

/-- The entry found after a copy is counted (R67). -/
theorem State.findSeen_copied (hfound : s.findSeen e.ident = some e) :
    (s.copied e h).findSeen e.ident = some (e.heardCopy (carryGoal h) (carryRank h)) :=
  State.findSeen_updateSeen hfound fun x => (x.heardCopy_keeps _ _).1

/-- A copy that asks for one more HUSH: it is counted, the hush count raised and the HUSH offered (R110, R111). -/
theorem takeCopy_spec_asks (hfound : s.findSeen e.ident = some e) (hasks : AsksHush s e h) :
    let u := s.takeCopy e h
    let x := e.heardCopy (carryGoal h) (carryRank h)
    u.findSeen e.ident = some { x with hushCount := x.hushCount + 1 }
      ∧ u.hushQueue = (if s.hushQueue.length < 4 then s.hushQueue ++ [e.ident] else s.hushQueue)
      ∧ u.stats.hushLost = (if s.hushQueue.length < 4 then s.stats.hushLost else min 255 (s.stats.hushLost + 1)) := by
  have hraised := State.findSeen_updateSeen (State.findSeen_copied (h := h) hfound)
    (f := fun x => { x with hushCount := x.hushCount + 1 }) fun _ => rfl
  dsimp only
  rw [State.takeCopy_asks hasks, State.offerHush_eq]
  exact ⟨hraised, rfl, rfl⟩

/-- Any other copy: it is counted, and settles at most the status of a PENDING identity (R61, R67, R68). -/
theorem takeCopy_spec_other (hfound : s.findSeen e.ident = some e) (hnot : ¬AsksHush s e h) :
    let u := s.takeCopy e h
    (∃ status, (e.status ≠ .pending → status = e.status)
        ∧ u.findSeen e.ident = some { e.heardCopy (carryGoal h) (carryRank h) with status := status })
      ∧ u.hushQueue = s.hushQueue ∧ u.stats.hushLost = s.stats.hushLost := by
  have hcopied := State.findSeen_copied (h := h) hfound
  rcases State.takeCopy_other hnot with hu | ⟨hpending, i, c, hu⟩ <;> dsimp only <;> rw [hu]
  · exact ⟨⟨_, fun _ => (e.heardCopy_keeps _ _).2, hcopied⟩, rfl, rfl⟩
  · obtain ⟨status, -, hx⟩ := State.findSeen_removeHold hcopied i c
    exact ⟨⟨status, fun hsettled => absurd hpending hsettled, hx⟩, by simp [State.copied],
      (s.copied e h).removeHold_hushLost i c⟩

end Copy

/-- The end of a copy's event, where the receiver has no frame, leaves what the copy did to its seen entry, to the HUSH
queue and to its count, and the ring as it was (R15). -/
theorem takeCopy_finish {s : State} (e : Seen) (h : CarryHeader) (hrx : s.rx.busy = false) :
    let w := s.takeCopy e h
    w.finish.findSeen = w.findSeen ∧ w.finish.hushQueue = w.hushQueue
      ∧ w.finish.stats.hushLost = w.stats.hushLost ∧ w.finish.ring = s.ring := by
  intro w
  obtain ⟨-, hseen, -, hstats, -⟩ := finish_keeps (w := w) (by simpa [w] using hrx)
  exact ⟨funext fun k => by rw [State.findSeen, hseen]; rfl, by simp, by rw [hstats], by simp [w]⟩

/-- A stale own copy raises no request, so the end of its event is the event unit's alone (R66). -/
theorem exec_carryReceived_stale {t : Time} {rate : Rate} {h : CarryHeader} {p : List Byte} {check : BitVec 16}
    {levels : List Int} {s : State} (hrx : s.rx = .receiving rate) (hgood : carryBad h p check levels = false)
    (hother : h.sender ≠ s.own) (horigin : h.origin = s.own) (hnew : s.findSeen (carryIdent h) = none)
    (hquiet : Claim.Quiet s) : exec (.carryReceived t h p check levels) s
      = .next ((Claim.heard s t h.sender levels).count Stats.addOwn).settle := by
  obtain ⟨hseen, hown, -⟩ := heard_judges s t h.sender levels
  have hquiet' := quiet_heard hquiet t h.sender levels
  rw [exec_carryReceived_good hrx hgood hother, State.takeCarry, hseen, hnew]
  dsimp only
  rw [if_pos (by rw [hown, horigin])]
  exact congrArg _ (State.finish_of_quiet hquiet')

/-- A copy's event: the seen list takes it, and one request at most is granted after it (R13, R15, R65). -/
theorem exec_carryReceived_copy {t : Time} {rate : Rate} {h : CarryHeader} {p : List Byte} {check : BitVec 16}
    {levels : List Int} {s : State} {e : Seen} (hrx : s.rx = .receiving rate)
    (hgood : carryBad h p check levels = false) (hother : h.sender ≠ s.own)
    (hfound : s.findSeen (carryIdent h) = some e) : exec (.carryReceived t h p check levels) s
      = .next ((Claim.heard s t h.sender levels).takeCopy e h).finish := by
  obtain ⟨hseen, -, -⟩ := heard_judges s t h.sender levels
  rw [exec_carryReceived_good hrx hgood hother, State.takeCarry, hseen, hfound]

/-- When a copy asks for one more HUSH, by the state before its event (R106, R110). -/
theorem asksHush_heard_iff (s : State) (t : Time) (levels : List Int) (e : Seen) (h : CarryHeader) :
    AsksHush (Claim.heard s t h.sender levels) e h ↔ (s.cfg.role = .anchor ∧ e.goal = .upward s.cfg.anchorIndex
      ∧ e.goal = carryGoal h ∧ e.status = .delivered) ∧ e.hushCount < 2 := by
  obtain ⟨-, -, hcfg, -⟩ := heard_leaves s t h.sender levels
  rw [AsksHush, State.forOwnIndex_iff, hcfg]
  tauto

/-- Settles O21: a stale own copy is counted and that is all; a copy asks for one more HUSH or does not, and no grant at
the end of its event reaches what it is counted in. -/
theorem staleAndLaterCopies : Obligations.StaleAndLaterCopies := by
  refine ⟨fun t rate h p check levels s hrx hgood hother horigin hnew hquiet => ?_,
    fun t rate h p check levels s e hrx hgood hother _ hfound => ?_⟩
  · obtain ⟨hstats, -⟩ := heard_leaves s t h.sender levels
    generalize hv : Claim.heard s t h.sender levels = v at hstats
    have hexec := exec_carryReceived_stale (t := t) hrx hgood hother horigin hnew hquiet
    rw [hv] at hexec
    exact ⟨_, hexec, congrArg
      (fun c : Stats => { v with statuses := (v.count Stats.addOwn).settle.statuses, stats := c.addOwn }) hstats⟩
  · obtain ⟨hseen, -, -⟩ := heard_judges s t h.sender levels
    obtain ⟨hstats, hqueue, -, hsearching⟩ := heard_leaves s t h.sender levels
    obtain ⟨hring, -⟩ := heard_stores s t h.sender levels
    have hexec := exec_carryReceived_copy (t := t) hrx hgood hother hfound
    have hasks := asksHush_heard_iff s t levels e h
    have hident := (State.findSeen_some hfound).2
    rw [← hseen, ← hident] at hfound
    generalize Claim.heard s t h.sender levels = v at *
    obtain ⟨hseen', hqueue', hlost', hring'⟩ := takeCopy_finish e h (s := v) (by rw [hsearching]; rfl)
    have hlost : v.stats.hushLost = s.stats.hushLost := by rw [hstats]; rfl
    rw [← hlost, ← hqueue, ← hident, ← hring]
    by_cases hagain : AsksHush v e h
    · obtain ⟨hx, hqueued, hcounted⟩ := takeCopy_spec_asks hfound hagain
      rw [Seen.heardCopy_spec, ← hseen'] at hx
      obtain ⟨hagain', hbelow⟩ := hasks.1 hagain
      exact ⟨_, _, hexec, hx, rfl, rfl, rfl, ⟨fun hnot => absurd hagain' (hnot.resolve_right (by omega)),
        fun _ _ => ⟨rfl, hqueue'.trans hqueued, hlost'.trans hcounted⟩⟩, fun _ => ⟨rfl, hring'⟩⟩
    · obtain ⟨⟨status, hsettled, hx⟩, hqueued, hcounted⟩ := takeCopy_spec_other hfound hagain
      rw [Seen.heardCopy_spec, ← hseen'] at hx
      exact ⟨_, _, hexec, hx, rfl, rfl, rfl, ⟨fun _ => ⟨rfl, hqueue'.trans hqueued, hlost'.trans hcounted⟩,
        fun hagain' hbelow => absurd (hasks.2 ⟨hagain', hbelow⟩) hagain⟩, fun hs => ⟨hsettled hs, hring'⟩⟩

end Sys2Proof.Machine
end

section
namespace Sys2Proof.Machine

/-! ### Slots and rate control after a removal (R136, R157) -/

/-- A slot that a removed entry does not name stands (R157). -/
theorem State.removeHold_slots_other {s : State} {i : Fin 16} {c : Ending} {k : Fin 4}
    (hother : ∀ e, s.hold[i] = some e → e.slot ≠ some k) : (s.removeHold i c).slots[k] = s.slots[k] := by
  cases he : s.hold[i] with
  | none => rw [State.removeHold_none he]
  | some e =>
    have hslots : (s.removeHold i c).slots = (s.completeSlot e c).slots := by
      simp only [State.removeHold, he]
      split <;> unfold State.completeSlot <;> split <;> simp
    rw [hslots]
    unfold State.completeSlot
    split
    · next q o hq ho => exact setAt_other _ _ fun h => hother e he (h ▸ hq)
    all_goals rfl

/-- Only an echo reaches rate control (R136). -/
theorem State.removeHold_adapts {s : State} {i : Fin 16} {c : Ending} (hc : c ≠ .echoed) :
    (s.removeHold i c).echoed = s.echoed ∧ (s.removeHold i c).unechoed = s.unechoed := by
  unfold State.removeHold
  split
  · exact ⟨rfl, rfl⟩
  · simp [hc]

/-! ### SILENCE at the hold list (R100) -/

/-- What SILENCE does at one hold index: nothing, where it is free or its frame is being sent, or a removal (R100). -/
theorem State.silenceHold_cases (s : State) (i : Fin 16) :
    (s.silenceHold i = s ∧ ∀ e, s.hold[i] = some e → e.state = .sending)
      ∨ ∃ e, s.hold[i] = some e ∧ e.state ≠ .sending ∧ s.silenceHold i = s.removeHold i .silenced := by
  unfold State.silenceHold
  cases he : s.hold[i] with
  | none => exact .inl (by simp [State.removeHold_none he])
  | some e => by_cases hs : e.state = .sending <;> simp [hs]

/-- What every removal by SILENCE keeps is kept over the hold list (R100). -/
theorem State.foldl_silenceHold_induct {P : State → Prop} {l : List (Fin 16)} {s : State} (hs : P s)
    (keeps : ∀ v, P v → ∀ i ∈ l, ∀ e, v.hold[i] = some e → e.state ≠ .sending → P (v.removeHold i .silenced)) :
    P (l.foldl State.silenceHold s) := by
  refine List.foldlRecOn l State.silenceHold hs fun v hv i hi => ?_
  rcases v.silenceHold_cases i with ⟨h, -⟩ | ⟨e, he, hstate, h⟩ <;> rw [h]
  · exact hv
  · exact keeps v hv i hi e he hstate

/-- One place SILENCE comes to keeps its entry where that is being sent; the others stand (R100). -/
theorem State.silenceHold_hold (s : State) (i j : Fin 16) :
    (s.silenceHold i).hold[j] = if i = j then s.hold[j].filter fun e => e.state = .sending else s.hold[j] := by
  rcases s.silenceHold_cases i with ⟨h, hsending⟩ | ⟨e, he, hstate, h⟩
  · rw [h]
    split
    · next hij =>
      subst hij
      cases he : s.hold[i] with
      | none => rfl
      | some e => rw [Option.filter_some_pos (by simpa using hsending e he)]
    · rfl
  · rw [h, (State.removeHold_some he).1, setAt_get]
    split
    · next hij => rw [← hij, he, Option.filter_some_neg (by simp [hstate])]
    · rfl

/-- Of the places SILENCE has come to, what is being sent is left (R100). -/
theorem State.foldl_silenceHold_hold (l : List (Fin 16)) (s : State) (j : Fin 16) :
    (l.foldl State.silenceHold s).hold[j]
      = if j ∈ l then s.hold[j].filter fun e => e.state = .sending else s.hold[j] := by
  induction l generalizing s with
  | nil => simp
  | cons i l ih =>
    rw [List.foldl_cons, ih, State.silenceHold_hold]
    by_cases hij : i = j
    · by_cases hj : j ∈ l <;> simp [hij, hj]
    · by_cases hj : j ∈ l <;> simp [hij, hj, Ne.symm hij]

/-- The chains of dropped entries go to the tail of the free list in the order of their places (R100, R124). -/
theorem State.foldl_silenceHold_free {l : List (Fin 16)} (hl : l.Nodup) (s : State) :
    (l.foldl State.silenceHold s).free = s.free
      ++ ((l.filterMap fun i => s.hold[i]).filter fun e => e.state ≠ .sending).flatMap Hold.chain := by
  induction l generalizing s with
  | nil => simp
  | cons i l ih =>
    obtain ⟨hi, hl⟩ := List.nodup_cons.1 hl
    have hothers : (l.filterMap fun j => (s.silenceHold i).hold[j]) = l.filterMap fun j => s.hold[j] :=
      List.filterMap_congr fun j hj => by
        rw [State.silenceHold_hold, if_neg fun h => hi (by rwa [h])]
    rw [List.foldl_cons, ih hl, hothers, List.filterMap_cons]
    rcases s.silenceHold_cases i with ⟨h, hsending⟩ | ⟨e, he, hstate, h⟩
    · rw [h]
      cases he : s.hold[i] with
      | none => rfl
      | some e => simp [hsending e he]
    · rw [h, (State.removeHold_some he).2.1, he]
      simp [hstate]

/-- The hold entries in the order of their places (R73). -/
theorem State.holds_eq (s : State) : s.holds = (List.finRange 16).filterMap fun i => s.hold[i] := by
  have hplaces : s.hold.toList = (List.finRange 16).map fun i => s.hold[i] :=
    List.ext_getElem (by simp) fun i _ _ => by simp
  rw [State.holds, hplaces, List.filterMap_map]
  rfl

/-- A place holds after a removal what it held before, or nothing (R75). -/
theorem State.removeHold_hold_some {s : State} {i j : Fin 16} {c : Ending} {f : Hold}
    (h : (s.removeHold i c).hold[j] = some f) : s.hold[j] = some f := by
  cases he : s.hold[i] with
  | none => rwa [State.removeHold_none he] at h
  | some e =>
    rw [(State.removeHold_some he).1, setAt_get] at h
    split at h
    · cases h
    · exact h

/-- SILENCE has dropped the entry `e`: its seen entry is DROPPED and its slot COMPLETE, and no entry still held names
that slot (R61, R100, R157). -/
def DroppedBySilence (e : Hold) (u : State) : Prop :=
  (∃ x, u.findSeen e.ident = some x ∧ x.status = .dropped)
    ∧ ∀ k, e.slot = some k → u.slots[k] = .complete e.ident.serial (.dropped .silenced) e.attempts
      ∧ ∀ (j : Fin 16) (f : Hold), u.hold[j] = some f → f.slot ≠ some k

/-- Another entry's removal leaves what is dropped as it is. -/
theorem DroppedBySilence.removeHold {e : Hold} {u : State} (h : DroppedBySilence e u) (i : Fin 16) (c : Ending) :
    DroppedBySilence e (u.removeHold i c) := by
  obtain ⟨⟨x, hx, hstatus⟩, hslot⟩ := h
  obtain ⟨status, hsame, hx'⟩ := State.findSeen_removeHold hx i c
  refine ⟨⟨_, hx', (hsame (by simp [hstatus])).trans hstatus⟩, fun k hk => ?_⟩
  obtain ⟨hcomplete, hunnamed⟩ := hslot k hk
  exact ⟨(State.removeHold_slots_other (hunnamed i)).trans hcomplete,
    fun j f hf => hunnamed j f (State.removeHold_hold_some hf)⟩

/-- An entry removed by SILENCE, the only one that names its slot, is dropped (R61, R157). -/
theorem DroppedBySilence.of_removeHold {s : State} {i : Fin 16} {e : Hold} (hseen : SeenLaw s)
    (he : s.hold[i] = some e)
    (halone : ∀ (j : Fin 16) (f : Hold) (k : Fin 4), s.hold[j] = some f → e.slot = some k → f.slot = some k → j = i) :
    DroppedBySilence e (s.removeHold i .silenced) := by
  obtain ⟨hnodup, hpending⟩ := hseen.pending he
  obtain ⟨⟨hgone, -, hdropped, hslot⟩, -⟩ := State.removeHold_gone .silenced hnodup hpending he
  refine ⟨hdropped, fun k hk => ⟨hslot k _ hk rfl, fun j f hf hfk => ?_⟩⟩
  rw [halone j f k (State.removeHold_hold_some hf) hk hfk, hgone] at hf
  cases hf

/-- SILENCE drops every entry not being sent at the places it comes to (R100). -/
theorem State.foldl_silenceHold_dropped {l : List (Fin 16)} {s : State} {i : Fin 16} {e : Hold} (hseen : SeenLaw s)
    (he : s.hold[i] = some e) (hstate : e.state ≠ .sending)
    (halone : ∀ (j : Fin 16) (f : Hold) (k : Fin 4), s.hold[j] = some f → e.slot = some k → f.slot = some k → j = i)
    (hi : i ∈ l) : DroppedBySilence e (l.foldl State.silenceHold s) := by
  obtain ⟨before, after, rfl, hnew⟩ := List.eq_append_cons_of_mem hi
  rw [List.foldl_append, List.foldl_cons]
  have hlaw : SeenLaw (before.foldl State.silenceHold s) :=
    State.foldl_silenceHold_induct hseen fun v hv j _ _ _ _ => hv.removeHold j .silenced
  have hheld (j : Fin 16) (f : Hold) : (before.foldl State.silenceHold s).hold[j] = some f → s.hold[j] = some f :=
    State.foldl_silenceHold_induct (P := fun v => v.hold[j] = some f → s.hold[j] = some f) id
      fun v hv q _ _ _ _ hf => hv (State.removeHold_hold_some hf)
  have hstill : (before.foldl State.silenceHold s).hold[i] = some e := by
    rw [State.foldl_silenceHold_hold, if_neg hnew, he]
  generalize before.foldl State.silenceHold s = v at hlaw hheld hstill ⊢
  have hremoved : v.silenceHold i = v.removeHold i .silenced := by simp [State.silenceHold, hstill, hstate]
  rw [hremoved]
  exact State.foldl_silenceHold_induct
    (DroppedBySilence.of_removeHold hlaw hstill fun j f k hf => halone j f k (hheld j f hf))
    fun v hv j _ _ _ _ => hv.removeHold j _

/-! ### SILENCE at transmitter, beacon, HUSH queue and burst (R19, R57, R113, R176) -/

/-- An attempt in ASSESSING is cancelled, its owner told so (R19). -/
theorem State.cancelAttempt_assessing {s : State} {a : Attempt} (ha : s.tx = some a) (hp : a.phase = .assessing) :
    s.cancelAttempt = s.cancelOwner a.owner := by
  simp only [State.cancelAttempt, ha, hp, if_true]

/-- An attempt past ASSESSING goes on (R19). -/
theorem State.cancelAttempt_other {s : State} (h : ∀ a, s.tx = some a → a.phase ≠ .assessing) :
    s.cancelAttempt = s := by
  unfold State.cancelAttempt
  split
  · next a ha => exact if_neg (h a ha)
  · rfl

/-- An attempt cancelled in ASSESSING writes the burst where a survey frame owned it (R176). -/
theorem State.cancelOwner_burst (s : State) (o : Owner) :
    (s.cancelOwner o).burst = if o = .survey then .stopped else s.burst := by
  cases o with
  | beacon => cases hb : s.beacon <;> simp [State.cancelOwner, hb]
  | _ => rfl

/-- No removal by SILENCE tells rate control (R100, R136). -/
theorem State.silenceHolds_adapts (s : State) :
    s.silenceHolds.rate = s.rate ∧ s.silenceHolds.echoed = s.echoed ∧ s.silenceHolds.unechoed = s.unechoed :=
  State.foldl_silenceHold_induct (P := fun v => v.rate = s.rate ∧ v.echoed = s.echoed ∧ v.unechoed = s.unechoed)
    ⟨rfl, rfl, rfl⟩ fun v ⟨hrate, hechoed, hunechoed⟩ i _ _ _ _ =>
      have ⟨hsame, hsame'⟩ := State.removeHold_adapts (s := v) (i := i) (c := .silenced) (by simp)
      ⟨(v.removeHold_rate i (by simp)).trans hrate, hsame.trans hechoed, hsame'.trans hunechoed⟩

/-- What SILENCE does to a beacon and a HUSH head whose attempt it cancels (R57, R113). -/
theorem cancelAttempt_owner {s : State} {a : Attempt} (ha : s.tx = some a) (hp : a.phase = .assessing) :
    (∀ r, a.owner = .beacon → s.beacon = .inAttempt r → s.cancelAttempt.beacon = .due r)
      ∧ (a.owner = .hush → s.cancelAttempt.hushHead = .standing) := by
  rw [State.cancelAttempt_assessing ha hp]
  refine ⟨fun r ho hr => ?_, fun ho => ?_⟩ <;> rw [ho]
  · simp only [State.cancelOwner, hr]
  · rfl

/-- A burst ends at SILENCE, with its frame where that is past ASSESSING (R176). -/
theorem cancelAttempt_endBurst {s : State}
    (howner : s.burst = .inAttempt ∨ s.burst = .ending ↔ s.tx.any fun a => a.owner = .survey)
    (hending : s.burst = .ending → s.tx.any Attempt.pastAssessing) :
    s.cancelAttempt.endBurst.burst = if (s.burst = .inAttempt ∧ s.tx.any Attempt.pastAssessing) ∨ s.burst = .ending
      then .ending else .stopped := by
  rw [State.endBurst_eq]
  by_cases hother : ∀ a, s.tx = some a → a.phase ≠ .assessing
  · rw [State.cancelAttempt_other hother]
    refine if_congr ⟨fun hin => ?_, Or.imp And.left id⟩ rfl rfl
    obtain ⟨a, ha, -⟩ := (Option.any_eq_true _ _).1 (howner.1 hin)
    exact hin.imp (fun h => ⟨h, by simpa [ha] using a.pastAssessing_iff.2 (hother a ha)⟩) id
  · push Not at hother
    obtain ⟨a, ha, hp⟩ := hother
    have hnone : s.tx.any Attempt.pastAssessing = false := by simp [ha, Attempt.pastAssessing, hp]
    have hgoes : ¬s.burst = .ending := fun h => by simpa [hnone] using hending h
    have hstopped : ¬((if a.owner = .survey then Burst.stopped else s.burst) = .inAttempt
        ∨ (if a.owner = .survey then Burst.stopped else s.burst) = .ending) := by
      split
      · simp
      · next ho => exact fun hin => ho (by simpa [ha] using howner.1 hin)
    rw [State.cancelAttempt_assessing ha hp, State.cancelOwner_burst, if_neg hstopped, if_neg (by simp [hnone, hgoes])]

/-- SILENCE while RUNNING (R167). -/
theorem exec_silence {s : State} (h : s.station = .running) (t : Time) :
    exec (.silence t) s = .next (s.advance t).silenced.settle.ok := by
  simp only [exec, execSilence, State.port, State.advance_station, h, portRefusal]

/-- At most one hold entry names a slot (R152). -/
theorem SlotLaw.alone {s : State} (h : SlotLaw s) {i j : Fin 16} {e f : Hold} {k : Fin 4} (he : s.hold[i] = some e)
    (hf : s.hold[j] = some f) (hek : e.slot = some k) (hfk : f.slot = some k) : j = i := by
  obtain ⟨hpending, hnamed⟩ := h
  obtain ⟨-, hslot⟩ := hnamed e (State.mem_holds.2 ⟨i, he⟩) k hek
  obtain ⟨q, -, -, -, -, honly⟩ := hpending k _ hslot
  rw [honly j f hf hfk, honly i e he hek]

/-- An operation that reaches neither slots nor hold list keeps their law (R152). -/
theorem SlotLaw.of_frame {s u : State} (h : SlotLaw s) (hu : u.slots = s.slots ∧ u.hold = s.hold) : SlotLaw u := by
  obtain ⟨hslots, hhold⟩ := hu
  simpa only [SlotLaw, State.holds, hslots, hhold] using h

/-- What SILENCE drops at the hold list: what is not being sent, with its chain, its seen entry and its slot (R100). -/
theorem silenceHolds_spec {c : State} (hseen : SeenLaw c) (hslot : SlotLaw c) :
    (∀ i : Fin 16, c.silenceHolds.hold[i] = c.hold[i].filter fun e => e.state = .sending)
      ∧ c.silenceHolds.free = c.free ++ (c.holds.filter fun e => e.state ≠ .sending).flatMap Hold.chain
      ∧ ∀ e ∈ c.holds, e.state ≠ .sending → DroppedBySilence e c.silenceHolds := by
  refine ⟨fun i => ?_, ?_, fun e he hstate => ?_⟩
  · rw [State.silenceHolds, State.foldl_silenceHold_hold, if_pos (List.mem_finRange i)]
  · rw [State.silenceHolds, State.foldl_silenceHold_free (List.nodup_finRange 16), State.holds_eq]
  · obtain ⟨i, hi⟩ := State.mem_holds.1 he
    exact State.foldl_silenceHold_dropped hseen hi hstate (fun _ _ _ hf hek hfk => hslot.alone hi hf hek hfk)
      (List.mem_finRange i)

/-- What SILENCE does to the transmitter and its owners' records (R19, R57, R113). -/
theorem cancelAttempt_spec {s : State} (hbeacon : ∀ r, s.beacon = .inAttempt r → s.tx.any fun a => a.owner = .beacon)
    (hhush : s.hushHead = .inAttempt → s.tx.any fun a => a.owner = .hush) : let c := s.cancelAttempt
    (∀ a, s.tx = some a → c.tx = if a.phase = .assessing then none else some a)
      ∧ (∀ r, s.beacon = .inAttempt r → (∃ a, s.tx = some a ∧ a.phase = .assessing) → c.beacon = .due r)
      ∧ (s.hushHead = .inAttempt → (∃ a, s.tx = some a ∧ a.phase = .assessing) → c.hushHead = .standing)
      ∧ ((∀ a, s.tx = some a → a.phase ≠ .assessing) → c.beacon = s.beacon ∧ c.hushHead = s.hushHead) := by
  refine ⟨fun a ha => ?_, fun r hr ⟨a, ha, hp⟩ => ?_, fun hh ⟨a, ha, hp⟩ => ?_, fun hother => ?_⟩
  · rw [State.cancelAttempt_tx, ha, Option.filter_some]
    simp only [a.pastAssessing_iff, ite_not]
  · exact (cancelAttempt_owner ha hp).1 r (by simpa [ha] using hbeacon r hr) hr
  · exact (cancelAttempt_owner ha hp).2 (by simpa [ha] using hhush hh)
  · rw [State.cancelAttempt_other hother]
    exact ⟨rfl, rfl⟩

/-- Settles O48: the attempt in ASSESSING is cancelled first, then the hold list is gone through place by place, then
the burst ends. -/
theorem silenceDropsWhatIsNotBeingSent : Obligations.SilenceDropsWhatIsNotBeingSent := by
  intro t s hrun hseen hslot howner
  obtain ⟨-, hbeacon, ⟨hhush, -⟩, hsurvey, hending, -⟩ := howner
  let v : State := { s with now := max s.now t, station := .silent }
  let c : State := v.cancelAttempt
  let u : State := c.silenceHolds.endBurst.settle.ok
  obtain ⟨htx, hdue, hstanding, hother⟩ := cancelAttempt_spec (s := v) (fun r hr => hbeacon.1 ⟨r, hr⟩) hhush.1
  obtain ⟨hheld, hfree, hdropped⟩ :=
    silenceHolds_spec (c := c) (hseen.of_frame (by simp [c, v])) (hslot.of_frame (by simp [c, v]))
  obtain ⟨hstation, hjitter, hring, htable, hranks, hqueue, hpower⟩ : u.station = .silent ∧ u.jitter = s.jitter
      ∧ u.ring = s.ring ∧ u.table = s.table ∧ u.ranks = s.ranks ∧ u.hushQueue = s.hushQueue ∧ u.power = s.power := by
    simp [u, State.ok, c, v]
  obtain ⟨hrate, hechoed, hunechoed⟩ : u.rate = s.rate ∧ u.echoed = s.echoed ∧ u.unechoed = s.unechoed := by
    simpa [u, State.ok, c, v] using c.silenceHolds_adapts
  obtain ⟨hutx, hubeacon, huhush, hburst⟩ : u.tx = c.tx ∧ u.beacon = c.beacon ∧ u.hushHead = c.hushHead
      ∧ u.burst = c.endBurst.burst := by simp [u, State.ok, State.endBurst_eq]
  obtain ⟨huhold, hufree, huseen, huslots⟩ : u.hold = c.silenceHolds.hold ∧ u.free = c.silenceHolds.free
      ∧ u.findSeen = c.silenceHolds.findSeen ∧ u.slots = c.silenceHolds.slots := by
    simp [u, State.ok, funext_iff, State.findSeen]
  obtain ⟨hchold, hcfree, hcholds⟩ : c.hold = s.hold ∧ c.free = s.free ∧ c.holds = s.holds := by
    simp [c, v, State.holds]
  rw [← huhold, hchold] at hheld
  rw [← hufree, hcfree, hcholds] at hfree
  rw [hcholds] at hdropped
  rw [← hutx] at htx
  rw [← hubeacon] at hdue hother
  rw [← huhush] at hstanding hother
  refine ⟨u, exec_silence hrun t, hstation, rfl, hjitter, hring, htable, hranks, hqueue, hpower, hrate, hechoed,
    hunechoed, hheld, hfree, fun e he hstate => ?_, htx, hdue, hstanding, hother,
    hburst.trans (cancelAttempt_endBurst (s := v) hsurvey hending)⟩
  obtain ⟨hseen', hslots'⟩ := hdropped e he hstate
  rw [huseen, huslots]
  exact ⟨hseen', fun k hk => (hslots' k hk).1⟩

end Sys2Proof.Machine
end

section
namespace Sys2Proof.Machine

/-! ### A first copy held, and what the ring does after it (R73, R82, R84, R121) -/

/-- The lowest free hold index (R73). -/
theorem State.freeIndex_eq_some {s : State} {i : Fin 16} (hi : s.hold[i] = none) (below : ∀ j < i, s.hold[j].isSome) :
    s.freeIndex = some i :=
  find?_finRange_eq_some (by simp [hi]) fun j hj => by simpa [Option.isSome_iff_ne_none] using below j hj

/-- The hold entry of a first copy that is held: HOLDING until now + H, its chain from the head of the free list
(R82, R84). -/
def State.relayEntry (s : State) (h : CarryHeader) : Hold where
  ident := carryIdent h
  goal := carryGoal h
  dest := h.dest
  hops := h.hops - 1
  senderRank := carryRank h
  length := h.length.toNat
  chain := s.free.take (blocksFor h.length.toNat)
  state := .holding
  deadline := s.nowMs + (s.cfg.holdMin + s.relayTerm h + s.drawValue s.cfg.jitter + s.queueTerm)
  attempts := 0
  defers := 0
  transmitRank := none
  slot := none

/-- The state after a first copy is held at the free index `i`: one draw taken and its chain filled (R81, R82). -/
def State.relayHeld (s : State) (i : Fin 16) (h : CarryHeader) (p : List Byte) : State :=
  { s with
    free := s.free.drop (blocksFor h.length.toNat)
    mem := fillChain s.mem (s.free.take (blocksFor h.length.toNat)) p
    hold := setAt s.hold i (some (s.relayEntry h))
    jitter := jitterStep s.jitter }

/-- What the relay engine does with a first copy that passes every check (R82). -/
theorem State.applyArrival_held {s : State} {i : Fin 16} {h : CarryHeader} (p : List Byte)
    (hi : s.freeIndex = some i) (hheld : s.arrivalOf h = .held) : s.applyArrival h p .held = s.relayHeld i h p := by
  have hroom := (State.arrivalOf_held hheld).2
  have hlowest (n : Nat) (c : List Host.Cell) :
      (State.drawn { s with free := s.free.drop n, mem := c }).freeIndex = some i :=
    (State.freeIndex_congr rfl).trans hi
  simp only [State.applyArrival, State.holdArrival, State.allocate, if_pos hroom, State.addHold_at (hlowest _ _)]
  rfl

/-- A first copy that is held does not lack progress (R80). -/
theorem State.lacksProgress_of_held {s : State} {h : CarryHeader} (hheld : s.arrivalOf h = .held) :
    s.lacksProgress h = false := by
  unfold State.arrivalOf at hheld
  iterate 3 (split at hheld; · cases hheld)
  split at hheld
  · cases hheld
  · next hprogress => simpa using hprogress

/-- The middle term of an UPWARD copy's hold-off is by its progress, which an own rank of 4095 does not leave (R84). -/
theorem State.relayTerm_upward {s : State} {h : CarryHeader} {a : Fin 4} (hgoal : carryGoal h = .upward a)
    (hheld : s.arrivalOf h = .held) :
    s.relayTerm h = (64 - min (h.senderRank.toNat - s.ranks[a].toNat) 64) * s.cfg.holdSpan / 64 := by
  have hsome : (s.progress a h.senderRank).isNone = false := by
    simpa only [State.lacksProgress, hgoal] using State.lacksProgress_of_held hheld
  have hprogress : s.progress a h.senderRank = some (h.senderRank.toNat - s.ranks[a].toNat) := by
    unfold State.progress at hsome ⊢
    split
    · next hlacks => rw [if_pos hlacks] at hsome; cases hsome
    · rfl
  simp only [State.relayTerm, hgoal, hprogress, Option.getD_some, progressTerm]

/-- The middle term of a SPREAD copy's hold-off is half the span (R84). -/
theorem State.relayTerm_spread {s : State} {h : CarryHeader} {zone : Byte} (hgoal : carryGoal h = .spread zone) :
    s.relayTerm h = s.cfg.holdSpan / 2 := by
  simp only [State.relayTerm, hgoal]

/-- The sender rank of a copy is that of an UPWARD one alone (R4). -/
theorem carryRank_eq (h : CarryHeader) : carryRank h = if h.discipline = .upward then some h.senderRank else none := by
  unfold carryRank
  cases h.discipline <;> rfl

/-- The ring's part of a first copy: the offer where the delivery test passes (R121, R144). -/
def State.offered (s : State) (test : Bool) (h : CarryHeader) (p : List Byte) : State :=
  if test then s.offerDelivery h p else s

/-- The chains of the entries that stand behind those of `s` in the ring of `u`. -/
def joinedChains (s u : State) : List Block := (u.ring.drop s.ring.length).flatMap Delivery.chain

/-- The ring writes its entries, the store and its own count alone (R121, R147). -/
theorem State.offered_writes (s : State) (test : Bool) (h : CarryHeader) (p : List Byte) : ∃ ring free mem overflow,
    s.offered test h p = { s with
      ring := ring, free := free, mem := mem, stats := { s.stats with deliveryOverflow := overflow } } := by
  cases test with
  | false => exact ⟨_, _, _, _, rfl⟩
  | true =>
    by_cases htakes : s.ring.length < 8 ∧ blocksFor h.length.toNat ≤ s.free.length
    · obtain ⟨hplace, hroom⟩ := htakes
      exact ⟨_, _, _, _, State.offerDelivery_of_room p hplace hroom⟩
    · exact ⟨_, _, _, _, State.offerDelivery_of_full p (by omega)⟩

/-- The ring fills no blocks but those of the chain that joins it, which was free (R120, R147). -/
theorem State.offered_joined {s : State} (test : Bool) (h : CarryHeader) (p : List Byte) (hwf : Memory.wf s.mem) :
    joinedChains s (s.offered test h p) ⊆ s.free
      ∧ Claim.OtherBytesKept s (s.offered test h p) (joinedChains s (s.offered test h p)) := by
  have hnone {u : State} (hring : u.ring = s.ring) (hmem : u.mem = s.mem) :
      joinedChains s u ⊆ s.free ∧ Claim.OtherBytesKept s u (joinedChains s u) :=
    ⟨by simp [joinedChains, hring], fun x _ => by rw [hmem]⟩
  cases test with
  | false => exact hnone rfl rfl
  | true =>
    rw [State.offered, if_pos rfl]
    by_cases htakes : s.ring.length < 8 ∧ blocksFor h.length.toNat ≤ s.free.length
    · obtain ⟨hplace, hroom⟩ := htakes
      have hjoined : joinedChains s (s.offerDelivery h p) = s.free.take (blocksFor h.length.toNat) := by
        simp [joinedChains, State.offerDelivery_of_room p hplace hroom]
      rw [hjoined]
      exact ⟨List.take_subset .., State.offerDelivery_otherBytesKept h p hwf⟩
    · rw [State.offerDelivery_of_full p (by omega)]
      exact hnone rfl rfl

/-- A first copy is the relay engine's, then the ring's, and then stands in the seen list (R65, R76, R121). -/
theorem State.relayFirstCopy_eq (s : State) (h : CarryHeader) (p : List Byte) :
    let w := s.applyArrival h p (s.arrivalOf h)
    s.relayFirstCopy h p = (w.offered (s.deliveryTest h) h p).insertSeen (Claim.firstEntry h
      (arrivalStatus (s.arrivalOf h) (s.deliveryTest h && w.ringTakes h.length.toNat)) 0) := by
  dsimp only
  rw [firstEntry_eq]
  rfl

/-- A held first copy writes no block but those of its chain, which reads as the payload (R117, R120, R123). -/
theorem State.relayHeld_stored {s : State} (i : Fin 16) {h : CarryHeader} {p : List Byte} (hform : StoreForm s)
    (hdistinct : s.free.Nodup) (hlength : p.length = h.length.toNat) (hroom : blocksFor h.length.toNat ≤ s.free.length) :
    let w := s.relayHeld i h p
    let chain := (s.relayEntry h).chain
    Memory.wf w.mem ∧ Claim.OtherBytesKept s w chain ∧ chainBytes w.mem chain h.length.toNat = p
      ∧ chain.Disjoint w.free :=
  ⟨fillChain_wf hform, fun _ hx => read_fillChain_outside hform hx,
    chainBytes_fillHead hform hdistinct hlength hroom, List.disjoint_take_drop hdistinct (le_refl _)⟩

/-- Settles O17: the relay engine takes its chain from the head of the free list; what the ring then fills was still
free, so it is none of that chain. -/
theorem firstCopyIsHeld : Obligations.FirstCopyIsHeld := by
  intro t h p check levels s i hfirst hquiet hblock hform v hindex hheld hfree hbelow
  have hexec := exec_carryReceived_firstCopy (t := t) hfirst hquiet hindex
  have htest : v.deliveryTest h = s.deliveryTest h := congrFun (heard_judges s t h.sender levels).2.2 h
  obtain ⟨-, -, -, -, hlength, -⟩ := hfirst
  obtain ⟨table, ranks, statuses, hv⟩ : ∃ table ranks statuses, v = { s with
      now := max s.now t, rx := .searching, stats := Claim.good s.stats
      table := table, ranks := ranks, statuses := statuses } := heard_writes s t h.sender levels
  have hi : v.freeIndex = some i := by
    rw [hv]
    exact State.freeIndex_eq_some hfree hbelow
  rw [show Claim.heard s t h.sender levels = v from rfl, State.relayFirstCopy_eq, hheld,
    State.applyArrival_held p hi hheld, htest] at hexec
  rw [hexec]
  clear_value v
  have hupward {a : Fin 4} (hgoal : carryGoal h = .upward a) := State.relayTerm_upward hgoal hheld
  have hform' : StoreForm v := by rw [hv]; exact hform
  have hdistinct : v.free.Nodup := by rw [hv]; exact hblock.free_nodup
  obtain ⟨hwf, hwritten, hread, hapart⟩ :=
    v.relayHeld_stored i hform' hdistinct hlength (State.arrivalOf_held hheld).2
  obtain ⟨hsub, hkept⟩ := (v.relayHeld i h p).offered_joined (s.deliveryTest h) h p hwf
  obtain ⟨ring, free, mem, overflow, hu⟩ := (v.relayHeld i h p).offered_writes (s.deliveryTest h) h p
  rw [hu] at hsub hkept ⊢
  subst hv
  refine ⟨_, _, rfl, setAt_same .., fun j hj => setAt_other _ _ hj.symm, ?_, ?_, ?_, rfl, ?_, ?_, rfl, rfl, rfl⟩
  · rw [← carryRank_eq]
    rfl
  · change _ + (_ + State.relayTerm _ h + _ + _) = _
    split
    · next a hgoal => rw [hupward hgoal]; rfl
    · next zone hgoal => rw [State.relayTerm_spread hgoal]; rfl
  · exact (chainBytes_of_otherBytesKept hkept (List.disjoint_of_subset_right hsub hapart) _).trans hread
  · exact otherBytesKept_trans hwritten hkept
  · intro hno
    rw [hno] at hu
    exact ⟨(congrArg State.ring hu).symm, (congrArg State.free hu).symm⟩

end Sys2Proof.Machine
end

section
namespace Sys2Proof.Machine

/-! ### A first copy not held (R65, R83, R120) -/

/-- What the relay engine counts of a first copy that is not held: dropped_no_buffer for want of blocks, nothing for one
addressed here, else dropped_other (R83). -/
theorem State.applyArrival_stats (s : State) (h : CarryHeader) (p : List Byte) {a : Arrival} (ha : a ≠ .held) :
    (s.applyArrival h p a).stats = { s.stats with
      droppedNoBuffer := if a = .noBuffer then min 65535 (s.stats.droppedNoBuffer + 1) else s.stats.droppedNoBuffer
      droppedOther := if a = .noBuffer ∨ a = .addressedHere then s.stats.droppedOther
        else min 65535 (s.stats.droppedOther + 1) } := by
  cases a with
  | held => exact absurd rfl ha
  | _ => rfl

/-- The status of a first copy that is not held: DELIVERED where the ring takes it, else DROPPED (R65). -/
theorem arrivalStatus_of_not_held {a : Arrival} (ha : a ≠ .held) (test : Bool) (s : State) (n : Nat) :
    arrivalStatus a (test && s.ringTakes n)
      = if test ∧ s.ring.length < 8 ∧ (n + 15) / 16 ≤ s.free.length then .delivered else .dropped := by
  simp only [arrivalStatus, if_neg ha, Bool.and_eq_true, State.ringTakes_iff, blocksFor]

/-- Settles O18: the relay engine counts the reason and leaves the blocks to the ring, which is offered the copy where
the delivery test passes. -/
theorem firstCopyNotHeldIsCounted : Obligations.FirstCopyNotHeldIsCounted := by
  intro t h p check levels s hfirst hquiet v hindex hnot
  have hexec := exec_carryReceived_firstCopy (t := t) hfirst hquiet hindex
  have htest : v.deliveryTest h = s.deliveryTest h := congrFun (heard_judges s t h.sender levels).2.2 h
  obtain ⟨table, ranks, statuses, hv⟩ : ∃ table ranks statuses, v = { s with
      now := max s.now t, rx := .searching, stats := Claim.good s.stats
      table := table, ranks := ranks, statuses := statuses } := heard_writes s t h.sender levels
  rw [show Claim.heard s t h.sender levels = v from rfl, State.relayFirstCopy_eq,
    (State.applyArrival_counts v h p hnot).1, State.applyArrival_stats v h p hnot, arrivalStatus_of_not_held hnot,
    htest] at hexec
  rw [hexec]
  clear_value v
  generalize v.arrivalOf h = a
  subst hv
  obtain ⟨ring, free, mem, overflow, hu⟩ := State.offered_writes _ (s.deliveryTest h) h p
  rw [hu]
  refine ⟨_, rfl, rfl, rfl, rfl, rfl, rfl, rfl, fun hno => ?_, rfl⟩
  rw [hno] at hu
  exact ⟨(congrArg State.ring hu).symm, (congrArg State.free hu).symm, (congrArg State.mem hu).symm⟩

end Sys2Proof.Machine
end

section
namespace Sys2Proof.Machine

/-! ### A SUBMIT that passes every check (R153 to R156) -/

/-- The lowest FREE slot (R156). -/
theorem State.freeSlot_eq_some {s : State} {k : Fin 4} (hk : s.slots[k] = .free)
    (below : ∀ q < k, s.slots[q] ≠ .free) : s.freeSlot = some k :=
  find?_finRange_eq_some (by simp [hk]) fun q hq => by simpa using below q hq

/-- When a SUBMIT passes every check from the second on (R153). -/
theorem State.submitRefusal_eq_none {s : State} {d g : Byte} {dest : Address} {n : Nat} {k : Fin 4} {i : Fin 16}
    (hd : d.toNat ≤ 1) (hn : n ≤ 112) (hdest : dest ≠ 0)
    (hupward : d = 0 → g.toNat ≤ 3 ∧ ¬(s.cfg.role = .anchor ∧ g.toNat = s.cfg.anchorIndex.1)
      ∧ ∀ a : Fin 4, a.1 = g.toNat → s.ranks[a] ≠ 4095)
    (hslot : s.freeSlot = some k) (hindex : s.freeIndex = some i) (hroom : blocksFor n ≤ s.free.length) :
    s.submitRefusal d g dest n = none := by
  have hargs : ¬(1 < d.toNat ∨ 112 < n ∨ (d = 0#8 ∧ 3 < g.toNat) ∨ dest = 0#16) := by
    rintro (h | h | ⟨hzero, h⟩ | h)
    · omega
    · omega
    · have := (hupward hzero).1
      omega
    · exact hdest h
  have hother : ¬(d = 0#8 ∧ s.forOwnIndex (goalOf .upward g) = true) := by
    rintro ⟨hzero, hown⟩
    obtain ⟨hrange, hnot, -⟩ := hupward hzero
    obtain ⟨hrole, hgoal⟩ := (s.forOwnIndex_iff _).1 hown
    have hsame : g.toNat % 4 = s.cfg.anchorIndex.1 := congrArg Fin.val (Goal.upward.inj hgoal)
    exact hnot ⟨hrole, by omega⟩
  have hroute : ¬(d = 0#8 ∧ s.unreachable ⟨g.toNat % 4, by omega⟩ = true) := by
    rintro ⟨hzero, hnone⟩
    obtain ⟨hrange, -, hranks⟩ := hupward hzero
    exact hranks _ (Nat.mod_eq_of_lt (by omega)) (of_decide_eq_true hnone)
  have hplace : ¬(s.freeSlot = none ∨ s.freeIndex = none) := by simp [hslot, hindex]
  rw [State.submitRefusal, if_neg hargs, if_neg hother, if_neg hroute, if_neg hplace, if_neg (not_lt.2 hroom)]

/-- A SUBMIT that passes every check while RUNNING is accepted, and the event unit judges (R153, R156, R163). -/
theorem exec_submit_accepted {s : State} {t : Time} {d g : Byte} {dest : Address} {hops : Byte} {p : List Byte}
    (hrun : s.station = .running) (haccepted : (s.advance t).submitRefusal d g dest p.length = none) :
    exec (.submit t d g dest hops p) s
      = .next ((s.advance t).acceptSubmit (goalOf (if d = 0#8 then .upward else .spread) g) dest hops p).settle := by
  simp only [exec, execSubmit, State.port, State.advance_station, hrun, portRefusal, haccepted]

/-- The jitter generator once the serial counter is seeded: one draw where it was not (R155). -/
def State.seededJitter (s : State) : BitVec 16 := if s.serial = none then jitterStep s.jitter else s.jitter

/-- The first serial a SUBMIT tries: the counter's value, or its seed (R155). -/
def State.firstSerial (s : State) : Serial := s.serial.getD ((jitterStep s.jitter).setWidth 12)

/-- An unseeded counter costs one draw, from which it is seeded (R155). -/
theorem State.seeded_eq (s : State) : s.seeded = ({ s with jitter := s.seededJitter }, s.firstSerial) := by
  unfold State.seeded
  split
  · next v hseeded =>
    have hjitter : s.seededJitter = s.jitter := by simp [State.seededJitter, hseeded]
    have hfirst : s.firstSerial = v := by simp [State.firstSerial, hseeded]
    rw [hjitter, hfirst]
  · next hunseeded =>
    have hjitter : s.seededJitter = jitterStep s.jitter := if_pos hunseeded
    have hfirst : s.firstSerial = (jitterStep s.jitter).setWidth 12 := by simp [State.firstSerial, hunseeded]
    rw [hjitter, hfirst]
    rfl

/-- The serial of a SUBMIT accepted now (R63, R155). -/
def State.takenSerial (s : State) : Serial := s.searchSerial 17 s.firstSerial

/-- The first serial tried is taken where it is not PENDING (R155). -/
theorem State.takenSerial_of_free {s : State} (h : s.serialPending s.firstSerial = false) :
    s.takenSerial = s.firstSerial := by
  rw [State.takenSerial, State.searchSerial, if_neg (by simp [h])]

/-- The serial taken is not PENDING (R63). -/
theorem SeenLaw.takenSerial_free {s : State} (h : SeenLaw s) :
    ∀ x ∈ s.seen, x.ident = ⟨s.own, s.takenSerial⟩ → x.status ≠ .pending := by
  intro x hx hident hpending
  have := h.searchSerial_free s.firstSerial
  rw [Bool.eq_false_iff, Ne, s.serialPending_iff] at this
  exact this ⟨x, hx, hident, hpending⟩

/-- The seen entry of an own message (R156). -/
def ownEntry (ident : Ident) (goal : Goal) : Seen where
  ident := ident
  goal := goal
  status := .pending
  extraCopies := 0
  bestRank := none
  hushCount := 0

/-- The hold entry of a SUBMIT accepted now: HOLDING until now + H without a middle term, its chain from the head of the
free list (R84, R156). -/
def State.submitEntry (s : State) (k : Fin 4) (goal : Goal) (dest : Address) (hops : Byte) (length : Nat) : Hold where
  ident := ⟨s.own, s.takenSerial⟩
  goal := goal
  dest := dest
  hops := BitVec.ofNat 5 (submitHops s.cfg.maxHops hops)
  senderRank := none
  length := length
  chain := s.free.take (blocksFor length)
  state := .holding
  deadline := s.nowMs + (s.cfg.holdMin + (jitterStep s.seededJitter).toNat % (s.cfg.jitter + 1) + s.queueTerm)
  attempts := 0
  defers := 0
  transmitRank := none
  slot := some k

/-- What an accepted SUBMIT does to every block (R156). -/
theorem State.acceptSubmit_eq {s : State} {k : Fin 4} {i : Fin 16} (goal : Goal) (dest : Address) (hops : Byte)
    (p : List Byte) (hslot : s.freeSlot = some k) (hindex : s.freeIndex = some i)
    (hroom : blocksFor p.length ≤ s.free.length) : s.acceptSubmit goal dest hops p = { s with
      free := s.free.drop (blocksFor p.length)
      mem := fillChain s.mem (s.free.take (blocksFor p.length)) p
      jitter := jitterStep s.seededJitter
      seen := ((s.forgot ⟨s.own, s.takenSerial⟩).insertSeen (ownEntry ⟨s.own, s.takenSerial⟩ goal)).seen
      hold := setAt s.hold i (some (s.submitEntry k goal dest hops p.length))
      slots := setAt s.slots k (.pending s.takenSerial)
      serial := some (s.takenSerial + 1)
      response := Result.ok.code :: byteOf k.1 :: bigEndian 2 s.takenSerial.toNat
      fetching := none } := by
  have hserial (free : List Block) (mem : List Host.Cell) (jitter : BitVec 16) :
      State.searchSerial { s with free := free, mem := mem, jitter := jitter } 17 s.firstSerial = s.takenSerial :=
    State.searchSerial_congr rfl rfl 17 _
  have hfirst (free : List Block) (mem : List Host.Cell) :
      State.firstSerial { s with free := free, mem := mem } = s.firstSerial := rfl
  have hlowest (free : List Block) (mem : List Host.Cell) (jitter : BitVec 16) (seen : List Seen) (x : Seen) :
      (State.insertSeen { s with free := free, mem := mem, jitter := jitter, seen := seen } x).drawn.freeIndex
        = some i := (State.freeIndex_congr rfl).trans hindex
  simp only [State.acceptSubmit, State.allocate, if_pos hroom, hslot, State.seeded_eq, hfirst, hserial,
    State.addHold_at (hlowest _ _ _ _ _)]
  rfl

/-- A new identity is found as it was inserted (R60, R62). -/
theorem State.findSeen_insertSeen {s : State} {x : Seen} (hnew : ∀ y ∈ s.seen, y.ident ≠ x.ident) :
    (s.insertSeen x).findSeen x.ident = some x := by
  obtain ⟨kept, hseen, hsub⟩ := s.insertSeen_seen x
  have hnone : kept.find? (fun y => decide (y.ident = x.ident)) = none :=
    List.find?_eq_none.2 fun y hy => by simpa using hnew y (hsub.subset hy)
  rw [State.findSeen, hseen, List.find?_append, hnone]
  simp

/-- A serial in two bytes, most-significant byte first (R161). -/
theorem bigEndian_serial (v : Serial) : bigEndian 2 v.toNat = [(v.setWidth 16).extractLsb' 8 8, v.setWidth 8] := by
  have hlow : BitVec.ofNat 8 v.toNat = v.setWidth 8 := rfl
  have hhigh : BitVec.ofNat 8 (v.toNat / 256) = (v.setWidth 16).extractLsb' 8 8 := by
    apply BitVec.eq_of_toNat_eq
    have := v.isLt
    simp only [BitVec.toNat_ofNat, BitVec.extractLsb'_toNat, BitVec.toNat_setWidth, Nat.shiftRight_eq_div_pow]
    omega
  simp [bigEndian, hlow, hhigh]

/-- Settles O43: every check passes, and the SUBMIT takes what was free: the lowest slot and hold index, a serial not
PENDING, and blocks from the head of the free list. -/
theorem acceptedSubmitsAreHeld : Obligations.AcceptedSubmitsAreHeld := by
  intro t d g dest hops p s k i hrun hd hlength hdest hupward hslot hslots hfree hbelow hroom hseen hblock hform
    seeded first
  have hk : (s.advance t).freeSlot = some k := State.freeSlot_eq_some hslot hslots
  have hi : (s.advance t).freeIndex = some i := State.freeIndex_eq_some hfree hbelow
  have haccepted := State.submitRefusal_eq_none (s := s.advance t) hd hlength hdest hupward hk hi hroom
  rw [exec_submit_accepted hrun haccepted, State.acceptSubmit_eq _ dest hops p hk hi hroom]
  have hserial : (s.advance t).takenSerial = s.takenSerial := State.searchSerial_congr rfl rfl 17 _
  have hfound (goal : Goal) : ((s.forgot ⟨s.own, s.takenSerial⟩).insertSeen
      (ownEntry ⟨s.own, s.takenSerial⟩ goal)).findSeen ⟨s.own, s.takenSerial⟩ = some (ownEntry _ goal) :=
    State.findSeen_insertSeen fun y hy => of_decide_eq_true (List.mem_filter.1 hy).2
  rw [hserial]
  refine ⟨_, s.takenSerial, _, rfl, rfl, rfl, ?_, rfl, rfl, hseen.takenSerial_free, fun hnot => ?_, ⟨_, hfound _, rfl⟩,
    chainBytes_fillHead hform hblock.free_nodup rfl hroom, rfl, fun x hx => read_fillChain_outside hform hx, rfl, ?_,
    rfl⟩
  · exact congrArg (fun bytes => 0x00 :: BitVec.ofNat 8 k.1 :: bytes) (bigEndian_serial s.takenSerial)
  · refine State.takenSerial_of_free ?_
    rw [Bool.eq_false_iff, Ne, s.serialPending_iff]
    exact fun ⟨x, hx, hident, hpending⟩ => hnot x hx hident hpending
  · rw [State.submitEntry, hserial]
    rfl

end Sys2Proof.Machine
end

section
namespace Sys2Proof.Machine

/-! ### What an ending tells rate control (R136, R138) -/

theorem rateCode_rateUp {r top : Rate} (h : rateCode r < rateCode top) : rateCode (rateUp r) = rateCode r + 1 := by
  cases r with
  | slow => rfl
  | mid => rfl
  | fast => cases top <;> exact absurd h (by decide)

/-- From `s` to `v` rate control, its parameters and the status and mask of RATE_CHANGE stand (R136, R168). -/
structure SameAdaptation (s v : State) : Prop where
  echoed : v.echoed = s.echoed
  unechoed : v.unechoed = s.unechoed
  rate : v.rate = s.rate
  cfg : v.cfg = s.cfg
  masks : v.masks = s.masks
  status : v.statuses.getLsbD 8 = s.statuses.getLsbD 8

theorem SameAdaptation.trans {s v w : State} (h₁ : SameAdaptation s v) (h₂ : SameAdaptation v w) :
    SameAdaptation s w where
  echoed := h₂.echoed.trans h₁.echoed
  unechoed := h₂.unechoed.trans h₁.unechoed
  rate := h₂.rate.trans h₁.rate
  cfg := h₂.cfg.trans h₁.cfg
  masks := h₂.masks.trans h₁.masks
  status := h₂.status.trans h₁.status

/-- RATE_CHANGE's status at the end of an event that does not report it (R168). -/
theorem rateChange_not_told {s v : State} (hmasks : v.masks = s.masks)
    (hstatus : v.statuses.getLsbD 8 = s.statuses.getLsbD 8) : Claim.Told s v.settle 8 False := by
  rw [Claim.Told, State.settle_transition _ (by decide) (by decide), hmasks, hstatus, Bool.and_eq_true, or_false]

/-- RATE_CHANGE's status at the end of an event that reports it (R168). -/
theorem rateChange_told {s v : State} (hmasks : v.masks = s.masks) :
    Claim.Told s (v.report .rateChange).settle 8 True := by
  rw [Claim.Told, State.settle_transition _ (by decide) (by decide), Bool.and_eq_true, State.report_status,
    State.report_masks, hmasks, or_true, and_true]
  exact ⟨And.left, fun hmask => ⟨hmask, .inr ⟨hmask, rfl⟩⟩⟩

/-- An echoed outcome raises the echoed streak, and the rate level where the streak is done and MAX_RATE above it
(R136, R138). -/
theorem SameAdaptation.echoTold {s v : State} (h : SameAdaptation s v) :
    Claim.EchoTold s v.echoedOutcome.settle := by
  unfold State.echoedOutcome
  rw [h.echoed, h.cfg, h.rate]
  split
  · next hbelow =>
    exact ⟨rfl, fun _ => ⟨rfl, rfl, rateChange_not_told h.masks h.status⟩,
      fun hdone => absurd hbelow (not_lt.2 hdone)⟩
  · next hdone =>
    refine ⟨?_, fun hbelow => absurd hbelow hdone, fun _ => ?_⟩ <;> split
    · rfl
    · rfl
    · next hrises =>
      exact ⟨rfl, fun _ => ⟨rateCode_rateUp hrises, rateChange_told h.masks⟩,
        fun htop => absurd hrises (not_lt.2 htop)⟩
    · next htop =>
      exact ⟨rfl, fun hrises => absurd hrises htop, fun _ => ⟨rfl, rateChange_not_told h.masks h.status⟩⟩

/-- What a removal does before rate control hears of it leaves rate control as it was (R75). -/
theorem SameAdaptation.beforeEcho (s : State) (e : Hold) (c : Ending) : SameAdaptation s
    ((((s.freeChain e.chain).updateSeen e.ident (Seen.settleAs c.seenStatus)).count c.counted).completeSlot e c) where
  echoed := by simp
  unechoed := by simp
  rate := by simp
  cfg := by simp [State.cfg]
  masks := by simp
  status := by simp

/-- An ending other than the echo is not told to rate control (R136). -/
theorem SameAdaptation.removeHold (s : State) (i : Fin 16) {c : Ending} (hc : c ≠ .echoed) :
    SameAdaptation s (s.removeHold i c) := by
  unfold State.removeHold
  split
  · exact ⟨rfl, rfl, rfl, rfl, rfl, rfl⟩
  · next e _ =>
    dsimp only
    rw [if_neg hc]
    exact (SameAdaptation.beforeEcho s e c).trans ⟨rfl, rfl, rfl, rfl, rfl, rfl⟩

/-- The echo of an entry is told to rate control (R89, R136). -/
theorem SameAdaptation.echoTold_removeHold {s v : State} (h : SameAdaptation s v) {i : Fin 16} {e : Hold}
    (he : v.hold[i] = some e) : Claim.EchoTold s (v.removeHold i .echoed).settle := by
  unfold State.removeHold
  rw [he]
  exact (h.trans (.beforeEcho v e .echoed)).echoTold

/-! ### The state in which a copy or a HUSH judges the hold list (R13, R67, R69) -/

/-- The margin of a sender heard is no matter of RATE_CHANGE (R35, R48). -/
theorem State.takeMargin_rateChange (s : State) (a : Address) (margin : Nat) :
    (s.takeMargin a margin).statuses.getLsbD 8 = s.statuses.getLsbD 8 := by
  have hapart (k : Fin 4) : 8 ≠ 3 + k.1 := by omega
  unfold State.takeMargin
  repeat' split
  case isFalse => rw [Bool.eq_iff_iff, State.recompute_status]; simp [hapart]
  all_goals rfl

theorem SameAdaptation.heard (s : State) (t : Time) (sender : Address) (levels : List Int) :
    SameAdaptation s (Claim.heard s t sender levels) := by
  have hstatus : (Claim.heard s t sender levels).statuses.getLsbD 8 = s.statuses.getLsbD 8 :=
    (s.advance t).takeGood.takeMargin_rateChange sender (marginOf levels)
  obtain ⟨table, ranks, statuses, hv⟩ := heard_writes s t sender levels
  rw [hv] at hstatus ⊢
  exact ⟨rfl, rfl, rfl, rfl, rfl, hstatus⟩

/-- From `s` to `v` a good frame is counted and nothing else done that bears on what becomes of a hold entry. -/
structure Judging (s v : State) : Prop where
  hold : v.hold = s.hold
  free : v.free = s.free
  stats : v.stats = Claim.good s.stats
  adapts : SameAdaptation s v
  law : SeenLaw v
  quiet : Claim.Quiet v

theorem judging_heard {s : State} (hlaw : SeenLaw s) (hquiet : Claim.Quiet s) (t : Time) (sender : Address)
    (levels : List Int) : Judging s (Claim.heard s t sender levels) := by
  have hadapts := SameAdaptation.heard s t sender levels
  have hquiet' := quiet_heard hquiet t sender levels
  obtain ⟨table, ranks, statuses, hv⟩ := heard_writes s t sender levels
  rw [hv] at hadapts hquiet' ⊢
  exact ⟨rfl, rfl, rfl, hadapts, hlaw, hquiet'⟩

/-- A copy is counted before it judges (R67). -/
theorem Judging.copied {s v : State} (h : Judging s v) (x : Seen) (c : CarryHeader) : Judging s (v.copied x c) where
  hold := h.hold
  free := h.free
  stats := h.stats
  adapts := h.adapts.trans ⟨rfl, rfl, rfl, rfl, rfl, rfl⟩
  law := h.law.updateSeen x.ident (Seen.heardCopy_keeps (carryGoal c) (carryRank c))
  quiet := h.quiet

/-- From `s` to `u` a good frame has brought the hold entry `e` at index `i` to the ending `c` (R75, R136, R157). -/
structure EndedBy (s u : State) (i : Fin 16) (e : Hold) (c : Ending) : Prop where
  removed : Claim.Removed s u i e c.seenStatus c.slotOutcome
  stats : u.stats = c.counted (Claim.good s.stats)
  echo : c = .echoed → Claim.EchoTold s u
  noEcho : c ≠ .echoed → u.echoed = s.echoed ∧ u.unechoed = s.unechoed ∧ u.rate = s.rate ∧ Claim.Told s u 8 False

section Judged

variable {s v : State} {i : Fin 16} {e : Hold}

/-- An entry that a judgement ends is removed alone, counted, and its echo told to rate control (R75, R86 to R89). -/
theorem Judging.ended (h : Judging s v) (he : s.hold[i] = some e) (c : Ending) :
    EndedBy s (v.removeHold i c).finish i e c := by
  have he' : v.hold[i] = some e := by rw [h.hold, he]
  obtain ⟨hremoved, hstats⟩ := State.removeHold_finish c h.quiet h.law he'
  rw [Claim.Removed, Claim.Gone, h.hold, h.free] at hremoved
  rw [h.stats] at hstats
  refine ⟨hremoved, hstats, ?_, fun hc => ?_⟩ <;> rw [State.finish_of_quiet (State.removeHold_quiet h.quiet i c)]
  · rintro rfl
    exact h.adapts.echoTold_removeHold he'
  · have hadapts := h.adapts.trans (.removeHold v i hc)
    exact ⟨hadapts.echoed, hadapts.unechoed, hadapts.rate, rateChange_not_told hadapts.masks hadapts.status⟩

/-- A judgement that lets the entry stand leaves hold list and free list (R86 to R89). -/
theorem Judging.stood (h : Judging s v) : v.finish.hold = s.hold ∧ v.finish.free = s.free := by
  rw [State.finish_of_quiet h.quiet]
  exact ⟨h.hold, h.free⟩

/-- The hold entry of an identity is found at its place (R64). -/
theorem SeenLaw.findHold (h : SeenLaw s) (he : s.hold[i] = some e) : s.findHold e.ident = some i := by
  refine find?_finRange_eq_some (by simp [he]) fun j hj => ?_
  rw [Option.any_eq_false]
  exact fun f hf => decide_eq_false fun hident => hj.ne (h.matched.alone j i f e hf he hident)

/-- The seen entry of a held identity is PENDING (R64). -/
theorem SeenLaw.findSeen_pending (h : SeenLaw s) (he : s.hold[i] = some e) :
    ∃ x, s.findSeen e.ident = some x ∧ x.status = .pending := by
  obtain ⟨hnodup, x, hx, hident, hstatus⟩ := h.pending he
  exact ⟨x, hident ▸ State.findSeen_of_mem hnodup hx, hstatus⟩

end Judged

/-! ### The judgement of a copy (R86, R87, R89) -/

/-- A copy suppresses an entry that waits: UPWARD its sender has made the progress, SPREAD the copies are enough
(R86, R87). -/
def Suppresses (s : State) (e : Hold) (h : CarryHeader) (copies : Nat) : Prop :=
  match e.goal with
  | .upward a => h.senderRank ≤ s.ranks[a]
  | .spread _ => s.cfg.spreadQuota ≤ copies

/-- A copy is the echo of an entry that awaits it: it comes from nearer the anchor (R89). -/
def Echoes (e : Hold) (h : CarryHeader) : Prop :=
  e.goal.discipline = .upward ∧ ∃ r, e.transmitRank = some r ∧ h.senderRank < r

theorem carryRank_any (h : CarryHeader) (p : Rank → Bool) :
    (carryRank h).any p = true ↔ (carryGoal h).discipline = .upward ∧ p h.senderRank = true := by
  unfold carryRank carryGoal goalOf
  cases h.discipline <;> simp [Goal.discipline]

section Judgement

variable {s : State} {i : Fin 16} {e : Hold} {h : CarryHeader} {copies : Nat}

/-- A copy of the entry's goal suppresses it where it waits, and lets it stand otherwise (R86, R87). -/
theorem State.judgeCopy_waiting (he : s.hold[i] = some e) (hgoal : e.goal = carryGoal h)
    (hwaits : e.state = .holding ∨ e.state = .ready) :
    (Suppresses s e h copies → s.judgeCopy i (carryRank h) copies = s.removeHold i .suppressed)
      ∧ (¬Suppresses s e h copies → s.judgeCopy i (carryRank h) copies = s) := by
  unfold Suppresses
  cases hg : e.goal with
  | spread zone =>
    have hjudged : s.judgeCopy i (carryRank h) copies
        = if s.cfg.spreadQuota ≤ copies then s.removeHold i .suppressed else s := by
      unfold State.judgeCopy
      rcases hwaits with hs | hs <;> simp only [he, hs, hg]
    rw [hjudged]
    exact ⟨fun h => if_pos h, fun h => if_neg h⟩
  | upward a =>
    have hjudged : s.judgeCopy i (carryRank h) copies
        = if (carryRank h).any fun r => r.toNat ≤ s.ranks[a].toNat then s.removeHold i .suppressed else s := by
      unfold State.judgeCopy
      rcases hwaits with hs | hs <;> simp only [he, hs, hg]
    have hrank : ((carryRank h).any fun r => r.toNat ≤ s.ranks[a].toNat) = true ↔ h.senderRank ≤ s.ranks[a] := by
      rw [carryRank_any, ← hgoal, hg, BitVec.le_def, decide_eq_true_eq]
      exact and_iff_right rfl
    rw [hjudged]
    exact ⟨fun h => if_pos (hrank.2 h), fun h => if_neg (mt hrank.1 h)⟩

/-- A copy of the entry's goal is the echo of an entry in AWAITING_ECHO, or lets it stand (R89). -/
theorem State.judgeCopy_awaitingEcho (he : s.hold[i] = some e) (hgoal : e.goal = carryGoal h)
    (hawaits : e.state = .awaitingEcho) :
    (Echoes e h → s.judgeCopy i (carryRank h) copies = s.removeHold i .echoed)
      ∧ (¬Echoes e h → s.judgeCopy i (carryRank h) copies = s) := by
  have hrank : ((carryRank h).any fun r => e.transmitRank.any fun t => r.toNat < t.toNat) = true ↔ Echoes e h := by
    rw [carryRank_any, ← hgoal, Option.any_eq_true]
    simp only [decide_eq_true_eq, ← BitVec.lt_def]
    rfl
  unfold State.judgeCopy
  simp only [he, hawaits]
  exact ⟨fun h => if_pos (hrank.2 h), fun h => if_neg (mt hrank.1 h)⟩

/-- A copy lets an entry stand whose attempt is in progress (R86, R89). -/
theorem State.judgeCopy_attempting (he : s.hold[i] = some e) (hstate : e.state = .assessing ∨ e.state = .sending)
    (rank : Option Rank) : s.judgeCopy i rank copies = s := by
  unfold State.judgeCopy
  rcases hstate with hs | hs <;> simp only [he, hs]

end Judgement

theorem HoldState.waits_or (x : HoldState) :
    (x = .holding ∨ x = .ready) ∨ x = .awaitingEcho ∨ x = .assessing ∨ x = .sending := by
  cases x <;> decide

/-- A copy of a held identity's goal judges its entry once it is counted (R67). -/
theorem State.takeCopy_judges {s : State} {x : Seen} {h : CarryHeader} {i : Fin 16} {e : Hold} (hlaw : SeenLaw s)
    (he : s.hold[i] = some e) (hident : e.ident = x.ident) (hfound : s.findSeen x.ident = some x)
    (hgoal : x.goal = carryGoal h) :
    s.takeCopy x h = (s.copied x h).judgeCopy i (carryRank h) (min 7 (x.extraCopies + 1)) := by
  obtain ⟨y, hy, hpending⟩ := hlaw.findSeen_pending he
  obtain rfl : x = y := Option.some.inj (hfound.symm.trans (hident ▸ hy))
  have hplace : (s.updateSeen x.ident (Seen.heardCopy (carryGoal h) (carryRank h))).findHold x.ident = some i :=
    hident ▸ hlaw.findHold he
  simp only [State.takeCopy, if_pos hgoal, hpending, hplace]
  rfl

/-- What becomes of a hold entry by a copy of its goal (R86, R87, R89). -/
theorem Judging.judgeCopy {s v : State} {i : Fin 16} {e : Hold} {h : CarryHeader} {copies : Nat} (hv : Judging s v)
    (he : s.hold[i] = some e) (hgoal : e.goal = carryGoal h) :
    let u := (v.judgeCopy i (carryRank h) copies).finish
    let waits := e.state = .holding ∨ e.state = .ready
    (waits → Suppresses v e h copies → EndedBy s u i e .suppressed)
      ∧ (e.state = .awaitingEcho → Echoes e h → EndedBy s u i e .echoed)
      ∧ (¬(waits ∧ Suppresses v e h copies) → ¬(e.state = .awaitingEcho ∧ Echoes e h) →
        u.hold = s.hold ∧ u.free = s.free) := by
  intro u waits
  have he' : v.hold[i] = some e := by rw [hv.hold, he]
  refine ⟨fun hwaits hsuppresses => ?_, fun hawaits hechoes => ?_, fun hnot hnot' => ?_⟩
  · rw [show u = (v.removeHold i .suppressed).finish from
      congrArg State.finish ((State.judgeCopy_waiting he' hgoal hwaits).1 hsuppresses)]
    exact hv.ended he .suppressed
  · rw [show u = (v.removeHold i .echoed).finish from
      congrArg State.finish ((State.judgeCopy_awaitingEcho he' hgoal hawaits).1 hechoes)]
    exact hv.ended he .echoed
  · have hstands : v.judgeCopy i (carryRank h) copies = v := by
      rcases HoldState.waits_or e.state with hwaits | hawaits | hattempt
      · exact (State.judgeCopy_waiting he' hgoal hwaits).2 fun hs => hnot ⟨hwaits, hs⟩
      · exact (State.judgeCopy_awaitingEcho he' hgoal hawaits).2 fun hs => hnot' ⟨hawaits, hs⟩
      · exact State.judgeCopy_attempting he' hattempt _
    rw [show u = v.finish from congrArg State.finish hstands]
    exact hv.stood

/-- A copy of another goal is counted in the extra copies alone (R67). -/
theorem exec_carryReceived_otherGoal {t : Time} {rate : Rate} {h : CarryHeader} {p : List Byte} {check : BitVec 16}
    {levels : List Int} {s : State} {x : Seen} (hrx : s.rx = .receiving rate)
    (hgood : carryBad h p check levels = false) (hother : h.sender ≠ s.own) (hquiet : Claim.Quiet s)
    (hfound : s.findSeen (carryIdent h) = some x) (hgoal : x.goal ≠ carryGoal h) :
    exec (.carryReceived t h p check levels) s = .next ((Claim.heard s t h.sender levels).copied x h).settle := by
  have hquiet' : Claim.Quiet ((Claim.heard s t h.sender levels).copied x h) := quiet_heard hquiet t h.sender levels
  rw [exec_carryReceived_copy hrx hgood hother hfound, State.takeCopy, if_neg hgoal]
  exact congrArg _ (State.finish_of_quiet hquiet')

/-- Settles O22: the copy is counted and then judges the entry of its identity, which the seen list's law puts at one
place; a copy of another goal is counted alone. -/
theorem copiesJudgeTheHoldEntry : Obligations.CopiesJudgeTheHoldEntry := by
  refine ⟨fun t rate h p check levels s i e x hrx hgood hother hlaw _ hquiet he hident hgoal hfound hxgoal => ?_,
    fun t rate h p check levels s x hrx hgood hother hquiet hfound hgoal => ?_⟩
  · have hexec := exec_carryReceived_copy (t := t) hrx hgood hother hfound
    have hv := judging_heard hlaw hquiet t h.sender levels
    obtain ⟨hseen, -, -⟩ := heard_judges s t h.sender levels
    have hxident := (State.findSeen_some hfound).2
    rw [← hseen, ← hxident] at hfound
    generalize Claim.heard s t h.sender levels = v at *
    rw [State.takeCopy_judges hv.law (hv.hold ▸ he) (hident.trans hxident.symm) hfound hxgoal] at hexec
    obtain ⟨hsuppressed, hechoed, hstood⟩ :=
      (hv.copied x h).judgeCopy (copies := min 7 (x.extraCopies + 1)) he hgoal
    have hsuppresses : Suppresses (v.copied x h) e h (min 7 (x.extraCopies + 1)) ↔ match e.goal with
        | .upward a => h.senderRank ≤ v.ranks[a]
        | .spread _ => s.cfg.spreadQuota ≤ min 7 (x.extraCopies + 1) := by
      rw [← hv.adapts.cfg]
      rfl
    rw [hsuppresses] at hsuppressed hstood
    refine ⟨_, hexec, fun hwaits hs => ?_, fun hawaits hs => ?_, hstood⟩
    · have hended := hsuppressed hwaits hs
      exact ⟨hended.removed, congrArg Stats.suppressed hended.stats, hended.noEcho (by decide)⟩
    · have hended := hechoed hawaits hs
      exact ⟨hended.removed, congrArg Stats.relayed hended.stats, hended.echo rfl⟩
  · have hexec := exec_carryReceived_otherGoal (t := t) hrx hgood hother hquiet hfound hgoal
    obtain ⟨hseen, -, -⟩ := heard_judges s t h.sender levels
    obtain ⟨table, ranks, statuses, hv⟩ := heard_writes s t h.sender levels
    have hxident := (State.findSeen_some hfound).2
    rw [← hseen, ← hxident] at hfound
    have hcopied := State.findSeen_copied (h := h) hfound
    rw [Seen.heardCopy_spec, if_neg fun hsame => hgoal hsame.1] at hcopied
    rw [hv] at hexec hcopied ⊢
    exact ⟨_, hexec, rfl, by rw [← hxident]; exact hcopied, rfl⟩

/-! ### The judgement of a HUSH (R69, R88, R89) -/

/-- A good HUSH from another station goes to the seen list once the table has heard it, and the event ends (R13). -/
theorem exec_hushReceived_good {t : Time} {rate : Rate} {h : HushHeader} {check : BitVec 16} {levels : List Int}
    {s : State} (hrx : s.rx = .receiving rate) (hgood : hushBad h check levels = false) (hother : h.sender ≠ s.own) :
    exec (.hushReceived t h check levels) s = .next ((Claim.heard s t h.sender levels).takeHush h).finish := by
  have hrx' : (s.advance t).rx.isReceiving = true := by rw [State.advance_rx, hrx]; rfl
  exact congrArg _ (State.receive_good hrx' hgood hother _)

/-- What becomes of a hold entry by a HUSH (R88, R89). -/
theorem Judging.judgeHush {s v : State} {i : Fin 16} {e : Hold} (hv : Judging s v) (he : s.hold[i] = some e) :
    let u := (v.judgeHush i).finish
    (e.state = .holding ∨ e.state = .ready → EndedBy s u i e .hushed)
      ∧ (e.state = .awaitingEcho → EndedBy s u i e .echoed)
      ∧ u.stats.framesGood = (s.stats.framesGood + 1) % 10000 := by
  have he' : v.hold[i] = some e := by rw [hv.hold, he]
  have hhushed := hv.ended he .hushed
  have hechoed := hv.ended he .echoed
  have hstood : v.finish.stats.framesGood = (s.stats.framesGood + 1) % 10000 := by
    rw [State.finish_of_quiet hv.quiet]
    exact congrArg Stats.framesGood hv.stats
  unfold State.judgeHush
  rw [he']
  dsimp only
  cases e.state
  case holding | ready => exact ⟨fun _ => hhushed, nofun, congrArg Stats.framesGood hhushed.stats⟩
  case awaitingEcho => exact ⟨nofun, fun _ => hechoed, congrArg Stats.framesGood hechoed.stats⟩
  case assessing | sending => exact ⟨nofun, nofun, hstood⟩

/-- A HUSH of a held identity judges its entry (R69). -/
theorem State.takeHush_held {s : State} {h : HushHeader} {i : Fin 16} {e : Hold} (hlaw : SeenLaw s)
    (he : s.hold[i] = some e) (hident : e.ident = hushIdent h) : s.takeHush h = s.judgeHush i := by
  obtain ⟨x, hx, hpending⟩ := hlaw.findSeen_pending he
  have hplace := hlaw.findHold he
  rw [← (State.findSeen_some hx).2] at hplace
  rw [hident] at hx
  simp only [State.takeHush, hx, if_pos hpending, hplace]

/-- The entry that stands for a HUSH of an absent identity (R69). -/
def hushEntry (h : HushHeader) : Seen :=
  ⟨⟨h.origin, h.serial⟩, .upward ⟨h.anchor.toNat, h.anchor.isLt⟩, .hushed, 0, none, 0⟩

/-- A HUSH of an identity not held leaves a settled one as it is, and enters an absent one (R69). -/
theorem State.takeHush_not_held {s : State} {h : HushHeader} (hlaw : SeenLaw s)
    (hnot : ∀ (i : Fin 16) (e : Hold), s.hold[i] = some e → e.ident ≠ hushIdent h) :
    ((s.findSeen (hushIdent h)).isSome → s.takeHush h = s)
      ∧ (s.findSeen (hushIdent h) = none → s.takeHush h = s.insertSeen (hushEntry h)) := by
  unfold State.takeHush
  cases hx : s.findSeen (hushIdent h) with
  | none =>
    have hanchor : h.anchor.toNat % 4 = h.anchor.toNat := Nat.mod_eq_of_lt h.anchor.isLt
    refine ⟨fun hsome => by simp at hsome, fun _ => ?_⟩
    simp only [hushEntry, hushIdent, hanchor]
  | some x =>
    obtain ⟨hmem, hident⟩ := State.findSeen_some hx
    have hsettled : x.status ≠ .pending := fun hpending => by
      obtain ⟨i, e, he, heident⟩ := hlaw.matched.held x hmem hpending
      exact hnot i e he (heident.trans hident)
    exact ⟨fun _ => if_neg hsettled, fun hnone => by cases hnone⟩

/-- The end of the event of a HUSH of an identity not held (R69). -/
theorem Judging.takeHush_not_held {s v : State} {h : HushHeader} (hv : Judging s v)
    (hnot : ∀ (i : Fin 16) (e : Hold), s.hold[i] = some e → e.ident ≠ hushIdent h) :
    let u := (v.takeHush h).finish
    u.hold = s.hold ∧ u.stats = Claim.good s.stats
      ∧ ((v.findSeen (hushIdent h)).isSome → u.seen = v.seen)
      ∧ (v.findSeen (hushIdent h) = none → u.seen = (v.insertSeen (hushEntry h)).seen) := by
  obtain ⟨hsettled, hentered⟩ := State.takeHush_not_held (h := h) hv.law fun i e he => hnot i e (hv.hold ▸ he)
  dsimp only
  cases hx : v.findSeen (hushIdent h) with
  | some x =>
    rw [hsettled (by rw [hx]; rfl), State.finish_of_quiet hv.quiet]
    exact ⟨hv.hold, hv.stats, fun _ => rfl, nofun⟩
  | none =>
    have hquiet : Claim.Quiet (v.insertSeen (hushEntry h)) := hv.quiet
    rw [hentered hx, State.finish_of_quiet hquiet]
    exact ⟨hv.hold, hv.stats, nofun, fun _ => rfl⟩

/-- Settles O23: a HUSH judges the entry of a held identity, which the seen list's law puts at one place and has PENDING;
of an identity not held it enters at most itself. -/
theorem hushEndsTheHold : Obligations.HushEndsTheHold := by
  intro t rate h check levels s hrx hgood hother hquiet hlaw _
  have hexec := exec_hushReceived_good (t := t) hrx hgood hother
  have hv := judging_heard hlaw hquiet t h.sender levels
  have hseen : (Claim.heard s t h.sender levels).seen = s.seen := by
    obtain ⟨table, ranks, statuses, hheard⟩ := heard_writes s t h.sender levels
    rw [hheard]
  generalize Claim.heard s t h.sender levels = v at *
  have hfound : v.findSeen = s.findSeen := funext fun k => by rw [State.findSeen, hseen]; rfl
  by_cases hheld : ∃ (i : Fin 16) (e : Hold), s.hold[i] = some e ∧ e.ident = hushIdent h
  · obtain ⟨i, e, he, hident⟩ := hheld
    obtain ⟨x, hx, hpending⟩ := hlaw.findSeen_pending he
    obtain ⟨hhushed, hechoed, hcounted⟩ := hv.judgeHush he
    rw [State.takeHush_held hv.law (hv.hold ▸ he) hident] at hexec
    rw [hident, hushIdent] at hx
    refine ⟨_, hexec, hcounted, fun j f hf hfident => ?_, fun y hy hsettled => ?_, fun habsent => ?_⟩
    · obtain rfl : j = i := hlaw.matched.alone j i f e hf he (hfident.trans hident.symm)
      obtain rfl : f = e := Option.some.inj (hf.symm.trans he)
      refine ⟨fun hwaits => ?_, fun hawaits => ?_⟩
      · obtain ⟨hsame, hsame', hrate, -⟩ := (hhushed hwaits).noEcho (by decide)
        exact ⟨(hhushed hwaits).removed, congrArg Stats.hushed (hhushed hwaits).stats, hsame, hsame', hrate⟩
      · exact ⟨(hechoed hawaits).removed, congrArg Stats.relayed (hechoed hawaits).stats, (hechoed hawaits).echo rfl⟩
    · obtain rfl : x = y := Option.some.inj (hx.symm.trans hy)
      exact absurd hpending hsettled
    · rw [hx] at habsent
      cases habsent
  · have hnot (i : Fin 16) (e : Hold) (he : s.hold[i] = some e) : e.ident ≠ hushIdent h := fun hident =>
      hheld ⟨i, e, he, hident⟩
    obtain ⟨hhold, hstats, hsettled, hentered⟩ := hv.takeHush_not_held hnot
    rw [hfound, hushIdent] at hsettled hentered
    exact ⟨_, hexec, congrArg Stats.framesGood hstats, fun i e he hident => absurd hident (hnot i e he),
      fun x hx _ => ⟨(hsettled (by rw [hx]; rfl)).trans hseen, hhold⟩,
      fun habsent => ⟨hhold, (hentered habsent).trans (State.insertSeen_congr hseen _)⟩⟩

end Sys2Proof.Machine
end

section
namespace Sys2Proof.Machine

/-! ### A slot read by ORIGIN_STATUS (R157, R158) -/

/-- A place written with what stands there is as it was. -/
theorem setAt_self {α : Type} {n : Nat} (v : Vector α n) (i : Fin n) : setAt v i v[i] = v := Vector.set_getElem_self _

/-- While RUNNING or SILENT a lamp port command outside the other rows of R163's table is taken. -/
theorem State.port_other {s : State} (h : s.station = .running ∨ s.station = .silent) (effect : State → State) :
    s.port .other effect = effect s := by
  rcases h with h | h <;> simp only [State.port, h, portRefusal]

/-- A FREE slot stays FREE, and three of its bytes have no stated value (R158, log 8). -/
theorem Slot.read_free (n : Nat) : ∃ x y z m, Slot.read n .free = ([0x00, x, y, 0x00, 0x00, z], .free, m) :=
  ⟨_, _, _, _, rfl⟩

/-- A PENDING slot reports its serial and stays PENDING; its attempts byte has no stated value (R158, log 8). -/
theorem Slot.read_pending (n : Nat) (v : Serial) : ∃ z m, Slot.read n (.pending v)
    = ([0x01, (v.setWidth 16).extractLsb' 8 8, v.setWidth 8, 0x00, 0x00, z], .pending v, m) := by
  refine ⟨Config.freeByte n, n + 1, ?_⟩
  rw [Slot.read, bigEndian_serial]
  rfl

/-- A COMPLETE slot reports all it holds and becomes FREE (R158). -/
theorem Slot.read_complete (n : Nat) (v : Serial) (o : SlotOutcome) (attempts : Nat) :
    Slot.read n (.complete v o attempts)
      = ([0x02, (v.setWidth 16).extractLsb' 8 8, v.setWidth 8, byteOf o.code, byteOf o.reasonCode, byteOf attempts],
        .free, n) := by
  rw [Slot.read, bigEndian_serial]
  rfl

/-- A slot number above 3 is BAD_ARGUMENT (R158). -/
theorem exec_originStatus_bad {s : State} {t : Time} {b : Byte} (h : s.station = .running ∨ s.station = .silent)
    (hb : 3 < b.toNat) : exec (.originStatus t b) s = .next (Claim.answered s t [0x04]) := by
  simp only [exec, execOriginStatus, State.port_other (s := s.advance t) h, dif_neg (show ¬b.toNat < 4 by omega)]
  rfl

/-- A slot number up to 3 has its slot reported and replaced by `Slot.read`, and the event unit judges (R158, R169). -/
theorem exec_originStatus_slot {s : State} {t : Time} {b : Byte} {k : Fin 4}
    (h : s.station = .running ∨ s.station = .silent) (hb : b.toNat = k.1) {bytes : List Byte} {slot : Slot} {m : Nat}
    (hread : Slot.read s.unstated s.slots[k] = (bytes, slot, m)) :
    exec (.originStatus t b) s
      = .next (State.answer { s with now := max s.now t, slots := setAt s.slots k slot, unstated := m }
          (0x00 :: bytes)).settle := by
  have hlt : b.toNat < 4 := by omega
  obtain rfl : (⟨b.toNat, hlt⟩ : Fin 4) = k := Fin.ext hb
  simp only [exec, execOriginStatus, State.port_other (s := s.advance t) h, dif_pos hlt, State.advance_slots,
    State.advance_unstated, hread]
  rfl

/-- Settles O44: a slot number above 3 is refused; of the others the slot decides, by its three forms. -/
theorem originStatusFreesCompleteSlots : Obligations.OriginStatusFreesCompleteSlots := by
  refine fun t b s h => ⟨exec_originStatus_bad h, fun k hb => ?_⟩
  cases hslot : s.slots[k] with
  | free =>
    obtain ⟨x, y, z, m, hread⟩ := Slot.read_free s.unstated
    rw [← hslot] at hread
    refine ⟨_, exec_originStatus_slot h hb hread, rfl, rfl, fun _ => ⟨?_, x, y, z, rfl⟩, nofun, nofun⟩
    exact hslot ▸ setAt_self s.slots k
  | pending v =>
    obtain ⟨z, m, hread⟩ := Slot.read_pending s.unstated v
    rw [← hslot] at hread
    refine ⟨_, exec_originStatus_slot h hb hread, rfl, rfl, nofun, fun v' hv => ?_, nofun⟩
    obtain rfl := Slot.pending.inj hv
    exact ⟨hslot ▸ setAt_self s.slots k, z, rfl⟩
  | complete v o n =>
    have hread := Slot.read_complete s.unstated v o n
    rw [← hslot] at hread
    refine ⟨_, exec_originStatus_slot h hb hread, rfl, rfl, nofun, nofun, fun v' o' n' hv => ?_⟩
    obtain ⟨rfl, rfl, rfl⟩ := Slot.complete.inj hv
    refine ⟨rfl, ?_⟩
    cases o with
    | echoed | sent | abandoned => rfl
    | dropped reason => cases reason <;> rfl

end Sys2Proof.Machine
end

section
namespace Sys2Proof.Machine

/-! ### Statuses the event unit leaves as they are (R168 to R170) -/

/-- The event unit has nothing left to do where it finds every status as it would leave it. -/
theorem eventLaw_iff (s : State) : EventLaw s ↔
    ∀ b, s.settle.statuses.getLsbD b = true ↔ s.statuses.getLsbD b = true := by
  constructor
  · intro h b
    rw [EventLaw] at h
    rw [h]
  · intro h
    have hstatuses : s.settle.statuses = s.statuses :=
      BitVec.eq_of_getLsbD_eq fun b _ => Bool.eq_iff_iff.2 (h b)
    calc s.settle = { s with statuses := s.settle.statuses } := rfl
      _ = s := by rw [hstatuses]

theorem SameSources.refl (s : State) : SameSources s s := ⟨rfl, rfl, rfl, rfl, rfl, rfl, rfl, rfl⟩

theorem EventLaw.of_sources {s u : State} (hs : EventLaw s) (h : SameSources s u) : EventLaw u :=
  State.settle_of_sources hs h

/-- The event unit is done once it has judged: judging again changes nothing (R169). -/
theorem eventLaw_settle (s : State) : EventLaw s.settle := by
  have hcondition : s.settle.conditionWord = s.conditionWord := rfl
  refine (eventLaw_iff _).2 fun b => ?_
  rw [s.settle.settle_status, s.settle_status, State.settle_masks, State.settle_modes, State.settle_latches, hcondition]
  tauto

/-- A transition reported is no business of the event unit's judgement (R168). -/
theorem EventLaw.report {s : State} (hs : EventLaw s) (src : Source) : EventLaw (s.report src) := by
  have hcondition : (s.report src).conditionWord = s.conditionWord := rfl
  have htransition : (levelWord s.modes).getLsbD src.bit = false := levelWord_high _ (by cases src <;> decide)
  refine (eventLaw_iff _).2 fun b => ?_
  have hb := (eventLaw_iff s).1 hs b
  rw [s.settle_status] at hb
  rw [State.settle_status, s.report_status, State.report_masks, State.report_modes, State.report_latches, hcondition]
  by_cases hsrc : b = src.bit
  · subst hsrc
    simp only [htransition] at hb ⊢
    tauto
  · simp only [hsrc, and_false, or_false]
    exact hb

/-- No status is set at reset values, and no level condition of an unmasked source holds (R181). -/
theorem eventLaw_resetBlocks (s : State) : EventLaw s.resetBlocks := by
  have hreset : EventLaw State.reset := rfl
  exact hreset.of_sources (.refl _)

/-- "clear" is nothing to the event unit (R94). -/
theorem EventLaw.clearChannel {s : State} (hs : EventLaw s) (a : Attempt) : EventLaw (s.clearChannel a) :=
  hs.of_sources (by simp [SameSources, State.clearChannel])

/-! ### Every row leaves the event unit with nothing to do (R169) -/

/-- The event unit is done in every next state of an outcome. -/
def EventTo (o : Host.Outcome State Fault Refusal) : Prop := ∀ u, o = .next u → EventLaw u

theorem EventTo.next {u : State} (h : EventLaw u) : EventTo (.next u) := fun _ hv => by cases hv; exact h

/-- A row that touches nothing the event unit judges by leaves it done. -/
theorem EventTo.kept {s u : State} (hs : EventLaw s) (h : SameSources s u) : EventTo (.next u) :=
  .next (hs.of_sources h)

/-- A row that ends with the event unit's judgement leaves it done. -/
theorem EventTo.settled (s : State) : EventTo (.next s.settle) := .next (eventLaw_settle s)

theorem EventTo.finished (s : State) : EventTo (.next s.finish) := .settled s.arbitrate

/-- An event that occurs, or does not (log 2). -/
theorem EventTo.ite {p : Prop} [Decidable p] {v w : State} (hv : EventTo (.next v)) (hw : EventTo (.next w)) :
    EventTo (if p then .next v else .next w) := by
  split
  · exact hv
  · exact hw

theorem EventLaw.advance {s : State} (hs : EventLaw s) (t : Time) : EventLaw (s.advance t) :=
  hs.of_sources (.refl _)

theorem EventLaw.answer {s : State} (hs : EventLaw s) (bytes : List Byte) : EventLaw (s.answer bytes) :=
  hs.of_sources (.refl _)

theorem EventLaw.ok {s : State} (hs : EventLaw s) : EventLaw s.ok := hs.answer _

theorem eventLaw_finish (s : State) : EventLaw s.finish := eventLaw_settle s.arbitrate

/-- A command of the lamp port is answered, or has its effect (R163). -/
theorem EventTo.port {s : State} (hs : EventLaw s) (t : Time) (c : PortClass) {effect : State → State}
    (h : ∀ v, EventLaw v → EventLaw (effect v)) : EventTo (.next ((s.advance t).port c effect)) := by
  refine EventTo.next ?_
  unfold State.port
  split
  · exact (hs.advance t).answer _
  · exact h _ (hs.advance t)

/-- A received frame is counted and discarded, or handed off in an event that ends with a judgement (R10, R12, R13). -/
theorem EventTo.receive {s : State} (hs : EventLaw s) (t : Time) (bad : Bool) (sender : Address)
    (handOff : State → State) : EventTo (.next ((s.advance t).receive bad sender handOff)) := by
  refine EventTo.next ?_
  have counted (f : Stats → Stats) : EventLaw (State.count { s.advance t with rx := .searching } f) :=
    hs.of_sources (.refl _)
  unfold State.receive
  split
  · split
    · exact counted _
    · split
      · exact counted _
      · exact eventLaw_finish _
  · exact hs.advance t

section Rows

variable {s : State}

/-- A malformed frame is counted, no more (R10). -/
theorem eventTo_discard (hs : EventLaw s) (t : Time) {p : Prop} [Decidable p] :
    EventTo (if p then .next (s.advance t).discardBad else .next (s.advance t)) :=
  .ite (.kept hs (.refl _)) (.next (hs.advance t))

/-- The load ends without a record, or with one accepted and judged (R182, R184). -/
theorem eventTo_load (hs : EventLaw s) (t : Time) :
    EventTo (execResetRelease t s) ∧ (∀ status, EventTo (execConfigStatusPoll t status s))
      ∧ EventTo (execConfigLoadTimeout t s) ∧ ∀ driven, EventTo (execConfigReadDone t driven s) := by
  have hawaits : EventLaw (s.advance t).awaitConfig := hs.of_sources (.refl _)
  have loading (st : Station) (l : Loader) : EventTo (.next { s.advance t with station := st, loader := l }) :=
    .kept hs (.refl _)
  have still : EventTo (.next (s.advance t)) := .next (hs.advance t)
  unfold execResetRelease execConfigStatusPoll execConfigLoadTimeout execConfigReadDone
  dsimp only
  refine ⟨.ite (loading _ _) still, fun status => ?_, ?_, fun driven => ?_⟩
  · split
    · exact .ite (loading _ _) still
    all_goals exact still
  · split
    · exact .ite (.next hawaits) still
    all_goals exact still
  · split
    · split
      · exact .next hawaits
      · exact .ite (.next (hawaits.report _)) (.settled _)
    · exact still

/-- The receiver's search ends with a judgement where it can end an attempt (R9, R16). -/
theorem eventTo_search (hs : EventLaw s) (t : Time) :
    (∀ rate unit, EventTo (execPreambleDetected t rate unit s)) ∧ EventTo (execStartMark t s)
      ∧ ∀ unit, EventTo (execPreambleEndNoFrame t unit s) := by
  have receiver (rx : Receiver) : EventTo (.next { s.advance t with rx := rx }) :=
    .kept hs (.refl _)
  have still : EventTo (.next (s.advance t)) := .next (hs.advance t)
  unfold execPreambleDetected execStartMark execPreambleEndNoFrame
  dsimp only
  refine ⟨fun rate unit => ?_, ?_, fun unit => ?_⟩
  · split
    · exact .finished _
    all_goals exact still
  · split
    · exact receiver _
    all_goals exact still
  · split
    · exact .ite (receiver _) still
    all_goals exact still

/-- Of the phases the end of BODY alone reaches what the event unit judges by, and ends with a judgement (R17). -/
theorem eventTo_phases (hs : EventLaw s) (t : Time) : EventTo (execCcaClear t s) ∧ EventTo (execSettlingEnd t s)
    ∧ EventTo (execPreambleSent t s) ∧ EventTo (execBodyEnd t s) := by
  have still : EventTo (.next (s.advance t)) := .next (hs.advance t)
  unfold execCcaClear execSettlingEnd execPreambleSent execBodyEnd
  dsimp only
  refine ⟨?_, ?_, ?_, ?_⟩ <;> split
  · exact .next ((hs.advance t).clearChannel _)
  · exact still
  · exact .kept hs (.refl _)
  · exact still
  · exact .kept hs (.refl _)
  · exact still
  · exact .finished _
  · exact still

/-- The deadlines of neighbour table and hold list end with a judgement (R33, R91, R98). -/
theorem eventTo_entries (hs : EventLaw s) (t : Time) : (∀ slot, EventTo (execNeighbourDueExpiry t slot s))
    ∧ ∀ i, EventTo (execHoldDeadlineExpiry t i s) ∧ EventTo (execEchoDeadlineExpiry t i s) := by
  have still : EventTo (.next (s.advance t)) := .next (hs.advance t)
  unfold execNeighbourDueExpiry execHoldDeadlineExpiry execEchoDeadlineExpiry
  dsimp only
  refine ⟨fun slot => ?_, fun i => ⟨?_, ?_⟩⟩ <;> split
  · exact .ite (.settled _) still
  · exact still
  · exact .ite (.finished _) still
  · exact still
  · exact .ite (.settled _) still
  · exact still

/-- A request that comes at a deadline ends with a judgement (R51, R52, R112, R175). -/
theorem eventTo_requests (hs : EventLaw s) (t : Time) : EventTo (execBeaconDueExpiry t s)
    ∧ EventTo (execBeaconBackoffExpiry t s) ∧ EventTo (execHushBackoffExpiry t s)
    ∧ EventTo (execSurveyIntervalExpiry t s) ∧ EventTo (execSurveyBackoffExpiry t s) := by
  have still : EventTo (.next (s.advance t)) := .next (hs.advance t)
  unfold execBeaconDueExpiry execBeaconBackoffExpiry execHushBackoffExpiry execSurveyIntervalExpiry
    execSurveyBackoffExpiry
  dsimp only
  refine ⟨?_, ?_, ?_, ?_, ?_⟩ <;>
  · split
    · exact .ite (.finished _) still
    all_goals exact still

/-- A replacement in attempt changes its deadline alone (R54). -/
theorem eventTo_replacement (hs : EventLaw s) (t : Time) : EventTo (execBeaconReplacementExpiry t s) := by
  have still : EventTo (.next (s.advance t)) := .next (hs.advance t)
  unfold execBeaconReplacementExpiry
  dsimp only
  split
  · exact .ite (.finished _) still
  · exact .ite (.finished _) still
  · exact .ite (.kept hs (.refl _)) still
  all_goals exact still

/-- The indicator's timers are nothing to the event unit (R173). -/
theorem eventTo_indicator (hs : EventLaw s) (t : Time) :
    EventTo (execStretchExpiry t s) ∧ EventTo (execIndicatorAlternation t s) := by
  have still : EventTo (.next (s.advance t)) := .next (hs.advance t)
  unfold execStretchExpiry execIndicatorAlternation
  dsimp only
  constructor <;> split
  · exact .ite (.kept hs (.refl _)) still
  · exact still
  · exact .ite (.kept hs (.refl _)) still
  · exact still

/-- An accepted record is judged; RESTART without one returns to reset values (R184 to R186). -/
theorem eventTo_configuration (hs : EventLaw s) (t : Time) :
    (∀ bytes, EventTo (execConfigure t bytes s)) ∧ EventTo (execRestart t s) := by
  refine ⟨fun bytes => ?_, ?_⟩
  · unfold execConfigure
    refine iteInduction (fun _ => .next (hs.advance t)) fun _ => .port hs t _ fun v hv => ?_
    split
    · exact hv.answer _
    · exact (eventLaw_settle _).ok
  · refine .port hs t _ fun v _ => ?_
    split
    · exact (eventLaw_settle _).ok
    · exact (eventLaw_resetBlocks v).of_sources (.refl _)

/-- The lamp port's rows of messages judge where they move a slot or the ring (R148, R153 to R158, R166). -/
theorem eventTo_messages (hs : EventLaw s) (t : Time) :
    (∀ discipline target dest hops payload, EventTo (execSubmit t discipline target dest hops payload s))
      ∧ (∀ slot, EventTo (execOriginStatus t slot s)) ∧ (∀ n, EventTo (execFetch t n s))
      ∧ EventTo (execRelease t s) := by
  refine ⟨fun _ _ _ _ _ => ?_, fun slot => ?_, fun n => ?_, ?_⟩ <;> refine .port hs t _ fun v hv => ?_ <;> split
  · exact hv.answer _
  · exact eventLaw_settle _
  · exact eventLaw_settle _
  · exact hv.answer _
  · exact hv.answer _
  · exact hv.of_sources (.refl _)
  · exact hv.answer _
  · exact (eventLaw_settle _).ok

/-- A FETCH ended early moves the payload cursor, which no source watches (R126). -/
theorem eventTo_endedEarly (hs : EventLaw s) (t : Time) (n : Nat) : EventTo (execTransactionEndedEarly t n s) := by
  have still : EventTo (.next (s.advance t)) := .next (hs.advance t)
  unfold execTransactionEndedEarly
  dsimp only
  split
  · exact .ite (.kept hs (.refl _)) still
  all_goals exact still

/-- A burst that starts ends with a judgement; one that runs is answered (R174). -/
theorem eventTo_survey (hs : EventLaw s) (t : Time) (count interval : BitVec 16) (rate fill : Byte) :
    EventTo (execSurvey t count interval rate fill s) := by
  refine .port hs t _ fun v hv => ?_
  split
  · exact (eventLaw_finish _).ok
  · exact hv.answer _

end Rows

/-- Every command leaves the event unit with nothing to do. -/
theorem exec_keeps_eventLaw (c : Instr) {s : State} (hs : EventLaw s) : EventTo (exec c s) := by
  cases c with
  | powerOn t => exact .next (eventLaw_resetBlocks _)
  | resetLine t => exact .next (eventLaw_resetBlocks _)
  | resetRelease t =>
    obtain ⟨hrelease, -⟩ := eventTo_load hs t
    exact hrelease
  | configStatusPoll t status =>
    obtain ⟨-, hpoll, -⟩ := eventTo_load hs t
    exact hpoll status
  | configLoadTimeout t =>
    obtain ⟨-, -, htimeout, -⟩ := eventTo_load hs t
    exact htimeout
  | configReadDone t driven =>
    obtain ⟨-, -, -, hread⟩ := eventTo_load hs t
    exact hread driven
  | preambleDetected t rate unit =>
    obtain ⟨hdetected, -⟩ := eventTo_search hs t
    exact hdetected rate unit
  | startMark t =>
    obtain ⟨-, hmark, -⟩ := eventTo_search hs t
    exact hmark
  | preambleEndNoFrame t unit =>
    obtain ⟨-, -, hend⟩ := eventTo_search hs t
    exact hend unit
  | carryHeaderComplete t header => exact eventTo_discard hs t
  | frameLost loss => exact eventTo_discard hs loss.time
  | beaconReceived t header check levels => exact .receive hs t _ _ _
  | carryReceived t header payload check levels => exact .receive hs t _ _ _
  | hushReceived t header check levels => exact .receive hs t _ _ _
  | surveyReceived t header fill check levels => exact .receive hs t _ _ _
  | busyLevelRise t level => exact .ite (.finished _) (.next (hs.advance t))
  | ccaClear t =>
    obtain ⟨hclear, -⟩ := eventTo_phases hs t
    exact hclear
  | settlingEnd t =>
    obtain ⟨-, hsettling, -⟩ := eventTo_phases hs t
    exact hsettling
  | preambleSent t =>
    obtain ⟨-, -, hpreamble, -⟩ := eventTo_phases hs t
    exact hpreamble
  | bodyEnd t =>
    obtain ⟨-, -, -, hbody⟩ := eventTo_phases hs t
    exact hbody
  | neighbourDueExpiry t slot =>
    obtain ⟨hneighbour, -⟩ := eventTo_entries hs t
    exact hneighbour slot
  | holdDeadlineExpiry t i =>
    obtain ⟨-, hentry⟩ := eventTo_entries hs t
    exact (hentry i).left
  | echoDeadlineExpiry t i =>
    obtain ⟨-, hentry⟩ := eventTo_entries hs t
    exact (hentry i).right
  | beaconDueExpiry t =>
    obtain ⟨hdue, -⟩ := eventTo_requests hs t
    exact hdue
  | beaconBackoffExpiry t =>
    obtain ⟨-, hbackoff, -⟩ := eventTo_requests hs t
    exact hbackoff
  | hushBackoffExpiry t =>
    obtain ⟨-, -, hhush, -⟩ := eventTo_requests hs t
    exact hhush
  | surveyIntervalExpiry t =>
    obtain ⟨-, -, -, hinterval, -⟩ := eventTo_requests hs t
    exact hinterval
  | surveyBackoffExpiry t =>
    obtain ⟨-, -, -, -, hsurvey⟩ := eventTo_requests hs t
    exact hsurvey
  | beaconReplacementExpiry t => exact eventTo_replacement hs t
  | stretchExpiry t => exact (eventTo_indicator hs t).left
  | indicatorAlternation t => exact (eventTo_indicator hs t).right
  | lselRiseAbort t => exact .next (hs.advance t)
  | status t => exact .port hs t _ fun v hv => hv.answer _
  | configure t bytes => exact (eventTo_configuration hs t).left bytes
  | restart t => exact (eventTo_configuration hs t).right
  | submit t discipline target dest hops payload =>
    obtain ⟨hsubmit, -⟩ := eventTo_messages hs t
    exact hsubmit discipline target dest hops payload
  | originStatus t slot =>
    obtain ⟨-, horigin, -⟩ := eventTo_messages hs t
    exact horigin slot
  | fetch t n =>
    obtain ⟨-, -, hfetch, -⟩ := eventTo_messages hs t
    exact hfetch n
  | release t =>
    obtain ⟨-, -, -, hrelease⟩ := eventTo_messages hs t
    exact hrelease
  | readEvents t => exact .port hs t _ fun v _ => (eventLaw_settle _).answer _
  | clearEvents t selection => exact .port hs t _ fun v _ => (eventLaw_settle _).ok
  | setEvents t masks modes latches => exact .port hs t _ fun v _ => (eventLaw_settle _).ok
  | readTable t => exact .port hs t _ fun v hv => hv.of_sources (.refl _)
  | readStats t clear => exact .port hs t _ fun v hv => hv.of_sources (.refl _)
  | silence t => exact .port hs t _ fun v _ => (eventLaw_settle _).ok
  | resume t => exact .port hs t _ fun v _ => (eventLaw_finish _).ok
  | survey t count interval rate fill => exact eventTo_survey hs t count interval rate fill
  | stopSurvey t => exact .port hs t _ fun v _ => (eventLaw_finish _).ok
  | readSurvey t clear => exact .port hs t _ fun v hv => hv.of_sources (.refl _)
  | badCommand t code => exact .ite (.next (hs.advance t)) (.next ((hs.advance t).answer _))
  | transactionEndedEarly t n => exact eventTo_endedEarly hs t n

theorem step_keeps_eventLaw : Kept EventLaw := by
  intro s u hs h
  unfold step at h
  split at h
  · cases h
    exact hs
  · next c rest _ =>
    have hrest : EventLaw { s with pending := rest } := hs.of_sources (.refl _)
    exact exec_keeps_eventLaw c hrest u h

/-- ATTN is asserted while a status is set (R172). -/
theorem State.attn_iff (s : State) : s.attn = true ↔ ∃ b, b < 12 ∧ s.statuses.getLsbD b = true := by
  have hzero : s.statuses = 0 ↔ ∀ b, b < 12 → s.statuses.getLsbD b = false := by
    constructor
    · intro h b _
      simp [h]
    · intro h
      exact BitVec.eq_of_getLsbD_eq fun b hb => by simp [h b hb]
  rw [State.attn, decide_eq_true_iff, Ne, hzero]
  simp

/-- Settles O60: a row either touches nothing the event unit judges by, reports a transition, or ends with the event
unit's judgement, which a second judgement would not change; ATTN is read off the twelve bits. -/
theorem eventLawIsKept : Obligations.EventLawIsKept := ⟨step_keeps_eventLaw, State.attn_iff⟩

end Sys2Proof.Machine
end

section
namespace Sys2Proof.Machine

/-! ### Statuses after new settings (R170) -/

/-- The REACH sources whose trigger mode changes (R170). -/
theorem changedReach_getLsbD (old new : BitVec 8) (b : Nat) : (changedReach old new).getLsbD b = true ↔
    ∃ a : Fin 4, b = 3 + a.1 ∧ triggerMode old a ≠ triggerMode new a := by
  simp [changedReach, BitVec.getLsbD_or, bitIf_getLsbD, Fin.exists_fin_succ, and_comm, or_assoc]

/-- What new trigger modes leave of the status with bit `b`: what it was, where it is not that of a REACH source whose
mode changes (R170). -/
def State.StatusKept (s : State) (modes : BitVec 8) (b : Nat) : Prop :=
  s.statuses.getLsbD b = true ∧ ¬∃ a : Fin 4, b = 3 + a.1 ∧ triggerMode s.modes a ≠ triggerMode modes a

/-- New settings take the status of a masked source and of a REACH source whose mode changes (R170). -/
theorem State.writeEvents_status (s : State) (masks : BitVec 12) (modes : BitVec 8) (latches : BitVec 12) (b : Nat) :
    (s.writeEvents masks modes latches).statuses.getLsbD b = true
      ↔ masks.getLsbD b = true ∧ s.StatusKept modes b := by
  have hlt (h : s.statuses.getLsbD b = true) : b < 12 := BitVec.lt_of_getLsbD h
  rw [State.StatusKept, ← changedReach_getLsbD, Bool.not_eq_true]
  simp only [State.writeEvents, BitVec.getLsbD_and, BitVec.getLsbD_not, Bool.and_eq_true, Bool.not_eq_true',
    decide_eq_true_eq]
  tauto

/-! ### A record accepted and judged (R170, R184) -/

/-- The state once a record is accepted, CONFIG_FAULT reported where `fault` says so, and the event unit has judged. -/
def State.taken (s : State) (r : Record) (fault : Bool) : State :=
  (if fault then (s.acceptRecord r).report .configFault else s.acceptRecord r).settle

theorem State.acceptBytes_eq_taken (s : State) (bytes : Nat → Byte) :
    s.acceptBytes bytes = s.taken (recordOf bytes) (decide (0 < clampCount bytes)) := by
  simp only [State.acceptBytes, State.taken, decide_eq_true_eq]

/-- Before the event unit judges, an acceptance keeps statuses by the new settings and may report CONFIG_FAULT (R170,
R183). -/
theorem State.acceptRecord_status (s : State) (r : Record) (b : Nat) :
    ((s.acceptRecord r).statuses.getLsbD b = true ↔ r.eventMasks.getLsbD b = true ∧ s.StatusKept r.triggerModes b)
      ∧ (((s.acceptRecord r).report .configFault).statuses.getLsbD b = true
        ↔ r.eventMasks.getLsbD b = true ∧ (s.StatusKept r.triggerModes b ∨ b = 11)) := by
  have hkept : (s.acceptRecord r).statuses.getLsbD b = true
      ↔ r.eventMasks.getLsbD b = true ∧ s.StatusKept r.triggerModes b :=
    State.writeEvents_status { s with jitter := _ } r.eventMasks r.triggerModes r.latchFlags b
  refine ⟨hkept, ?_⟩
  have hmasks : (s.acceptRecord r).masks = r.eventMasks := rfl
  rw [State.report_status, hkept, hmasks, show Source.configFault.bit = 11 from rfl]
  tauto

/-- Every status once a record is accepted (R168 to R170, R183). -/
theorem State.taken_status (s : State) (r : Record) (fault : Bool) (b : Nat) :
    (s.taken r fault).statuses.getLsbD b = true ↔ r.eventMasks.getLsbD b = true
      ∧ (((levelWord r.triggerModes).getLsbD b = false ∨ r.latchFlags.getLsbD b = true)
          ∧ (s.StatusKept r.triggerModes b ∨ fault = true ∧ b = 11)
        ∨ (levelWord r.triggerModes).getLsbD b = true ∧ (s.taken r fault).conditionWord.getLsbD b = true) := by
  obtain ⟨hkept, hreported⟩ := s.acceptRecord_status r b
  have masked (m l k c : Prop) : m ∧ (l ∧ m ∧ k ∨ c) ↔ m ∧ (l ∧ k ∨ c) := by tauto
  cases fault with
  | false =>
    have hjudged := (s.acceptRecord r).settle_status b
    rw [hkept] at hjudged
    refine hjudged.trans ?_
    simp only [Bool.false_eq_true, false_and, or_false]
    exact masked _ _ _ _
  | true =>
    have hjudged := ((s.acceptRecord r).report .configFault).settle_status b
    rw [hreported] at hjudged
    refine hjudged.trans ?_
    simp only [true_and]
    exact masked _ _ _ _

/-- At acceptance an anchor's own rank is 0 (R43). -/
theorem acceptedRanks_get (r : Record) (ranks : Vector Rank 4) (a : Fin 4) :
    (acceptedRanks r ranks)[a] = if r.role = .anchor ∧ a = r.anchorIndex then 0 else ranks[a] := by
  unfold acceptedRanks
  cases r.role with
  | lamp => simp
  | anchor => simp only [setAt_get, true_and, eq_comm]

/-- An acceptance leaves the time and the lamp port's answer as they were (R184). -/
theorem State.taken_frame (s : State) (r : Record) (fault : Bool) : (s.taken r fault).now = s.now
    ∧ (s.taken r fault).response = s.response ∧ (s.taken r fault).fetching = s.fetching
    ∧ (s.taken r fault).masks = r.eventMasks := by
  cases fault <;> exact ⟨rfl, rfl, rfl, rfl⟩

/-- Every block takes an accepted record, and the statuses but CONFIG_FAULT are judged under its settings (R170,
R184). -/
theorem accepted_taken (s : State) (r : Record) (fault : Bool) :
    Claim.Accepted r s.nowMs s (s.taken r fault) := by
  have hranks : (s.taken r fault).ranks = acceptedRanks r s.ranks := by cases fault <;> rfl
  refine ⟨?_, ?_, ?_, ?_, ?_, ?_, fun a => hranks ▸ acceptedRanks_get r s.ranks a, ?_, ?_, ?_, ?_, ?_, ?_, ?_, ?_,
    fun b hb => ?statuses, ?_⟩
  case statuses =>
    have hstatus := s.taken_status r fault b
    simp only [show b ≠ 11 by omega, and_false, or_false] at hstatus
    refine ⟨fun hmask => ?_, fun hmask hlevel => ?_, fun hmask hlevel => ?_⟩
    · simpa [hmask] using hstatus
    · simp only [hmask, hlevel, Bool.true_eq_false, false_or, true_and] at hstatus
      exact hstatus.trans or_comm
    · simp only [hmask, hlevel, Bool.false_eq_true, true_or, true_and, false_and, or_false] at hstatus
      exact hstatus
  all_goals cases fault <;> rfl

/-- CONFIG_FAULT after the acceptance of a record (R170, R183). -/
theorem State.taken_configFault (s : State) (r : Record) (fault : Bool) :
    (s.taken r fault).statuses.getLsbD 11
      = ((s.taken r fault).masks.getLsbD 11 && (s.statuses.getLsbD 11 || fault)) := by
  obtain ⟨-, -, -, hmasks⟩ := s.taken_frame r fault
  have hlevel : (levelWord r.triggerModes).getLsbD 11 = false := levelWord_high _ (by decide)
  have hkept : s.StatusKept r.triggerModes 11 ↔ s.statuses.getLsbD 11 = true :=
    and_iff_left fun ⟨a, ha, _⟩ => by omega
  rw [Bool.eq_iff_iff, s.taken_status, hmasks, hlevel, hkept]
  simp

/-- The lamp port's answer is no part of what an acceptance decides (R161, R184). -/
theorem accepted_answer {r : Record} {m : Millis} {s u : State} (h : Claim.Accepted r m s u) (bytes : List Byte) :
    Claim.Accepted r m s (u.answer bytes) := by
  obtain ⟨hrecord, hstation, hloader, hrx, hjitter, hbeacon, hranks, hpower, hrate, hechoed, hunechoed, hmasks, hmodes,
    hlatches, halternation, hstatuses, hframe⟩ := h
  exact ⟨hrecord, hstation, hloader, hrx, hjitter, hbeacon, hranks, hpower, hrate, hechoed, hunechoed, hmasks, hmodes,
    hlatches, halternation, hstatuses, congrArg (fun v => v.answer bytes) hframe⟩

/-- What the acceptance of the record in `bytes` leaves (R183, R184). -/
theorem accepted_bytes (s : State) (bytes : Nat → Byte) : (s.acceptBytes bytes).now = s.now
    ∧ Claim.Accepted (recordOf bytes) s.nowMs s (s.acceptBytes bytes)
    ∧ (s.acceptBytes bytes).response = s.response ∧ (s.acceptBytes bytes).fetching = s.fetching
    ∧ (s.acceptBytes bytes).statuses.getLsbD 11 = ((s.acceptBytes bytes).masks.getLsbD 11
      && (s.statuses.getLsbD 11 || decide (0 < clampCount bytes))) := by
  rw [State.acceptBytes_eq_taken]
  obtain ⟨hnow, hresponse, hfetching, -⟩ := s.taken_frame (recordOf bytes) (decide (0 < clampCount bytes))
  exact ⟨hnow, accepted_taken s _ _, hresponse, hfetching, s.taken_configFault _ _⟩

/-! ### The load and CONFIGURE judge a record (R182, R185) -/

/-- The record read is judged by its signature, then its node address, then accepted (R182). -/
theorem exec_configReadDone {s : State} (h : s.loader = .reading) (t : Time) (driven : List Byte) :
    exec (.configReadDone t driven) s = .next (
      if driven.getD 0 0xFF ≠ 0xC3#8 then (s.advance t).awaitConfig
      else if noStation (driven.getD 1 0xFF ++ driven.getD 2 0xFF) then (s.advance t).awaitConfig.report .configFault
      else (s.advance t).acceptBytes fun k => driven.getD k 0xFF) := by
  rw [apply_ite Host.Outcome.next, apply_ite Host.Outcome.next]
  exact if_pos h

/-- Settles O6: signature and node address decide between the three ends of the load; what an accepted record leaves is
`accepted_bytes`. -/
theorem loadJudgesTheRecordRead : Obligations.LoadJudgesTheRecordRead := by
  refine fun t driven s hreading => ⟨fun hsign => ?_, fun hsign hnode => ?_, fun hsign hnode => ?_⟩ <;>
    rw [exec_configReadDone hreading]
  · rw [if_pos hsign]
    rfl
  · rw [if_neg (not_not.2 hsign), if_pos hnode]
    rfl
  · rw [if_neg (not_not.2 hsign), hnode, if_neg Bool.false_ne_true]
    exact ⟨_, rfl, accepted_bytes (s.advance t) _⟩

/-- CONFIGURE taken in AWAITING_CONFIG is judged by its node address (R185). -/
theorem exec_configure {s : State} (h : s.station = .awaitingConfig) (t : Time) {bytes : List Byte}
    (hlen : bytes.length = 47) : exec (.configure t bytes) s = .next (
      if noStation (bytes.getD 0 0 ++ bytes.getD 1 0) then (s.advance t).answer [0x04]
      else ((s.advance t).acceptBytes fun k => bytes.getD (k - 1) 0).ok) := by
  simp only [exec, execConfigure, hlen, State.port, State.advance_station, h]
  rfl

/-- Settles O7: the node address decides; what an accepted record leaves is `accepted_bytes`, whatever is
answered. -/
theorem configureAcceptsAValidRecord : Obligations.ConfigureAcceptsAValidRecord := by
  refine fun t bytes s => ⟨fun hshort => if_pos hshort, fun hlen hstation hnode => ?_,
    fun hlen hstation hnode => ?_⟩ <;> rw [exec_configure hstation t hlen, hnode]
  · rfl
  · rw [if_neg Bool.false_ne_true]
    obtain ⟨hnow, haccepted, -, -, hfault⟩ := accepted_bytes (s.advance t) fun k => bytes.getD (k - 1) 0
    generalize (s.advance t).acceptBytes _ = u at hnow haccepted hfault ⊢
    exact ⟨_, rfl, hnow, accepted_answer haccepted _, rfl, rfl, hfault⟩

/-! ### Resets (R181, R186) -/

/-- While every block but the ranks is at its reset value, no level condition but that of REACH holds (R127, R150,
R159). -/
theorem State.conditionWord_low {u : State} (hring : u.ring = []) (hslots : u.slots = Vector.replicate 4 .free)
    (hfree : u.free = List.finRange 96) {b : Nat} (hb : b < 3) : u.conditionWord.getLsbD b = false := by
  have hdelivery : u.deliveryHolds = false := by rw [State.deliveryHolds, hring]; rfl
  have horigin : u.originDoneHolds = false := by rw [State.originDoneHolds, hslots]; rfl
  have hbuffer : u.bufferLowHolds = false := by rw [State.bufferLowHolds, hfree]; rfl
  rw [← Bool.not_eq_true]
  simp only [State.conditionWord, BitVec.getLsbD_or, Bool.or_eq_true, bitIf_getLsbD, Nat.reduceLT, hdelivery, horigin,
    hbuffer, show b ≠ 3 ∧ b ≠ 4 ∧ b ≠ 5 ∧ b ≠ 6 by omega]
  simp

/-- After a record is accepted at reset values, the statuses are those of the unmasked REACH sources in mode LEVEL
whose rank is 4095 (R49, R170, R186). -/
theorem taken_resetBlocks_status (s : State) (r : Record) {b : Nat} (hb : b < 12) :
    (s.resetBlocks.taken r false).statuses.getLsbD b = true ↔ r.eventMasks.getLsbD b = true
      ∧ ∃ a : Fin 4, b = 3 + a.1 ∧ triggerMode r.triggerModes a = 0
        ∧ (s.resetBlocks.taken r false).ranks[a] = 4095 := by
  have hcleared : ¬s.resetBlocks.StatusKept r.triggerModes b := fun ⟨h, _⟩ =>
    Bool.false_ne_true ((BitVec.getLsbD_zero (i := b) (w := 12)).symm.trans h)
  rw [State.taken_status]
  simp only [hcleared, Bool.false_eq_true, false_and, or_false, and_false, false_or]
  refine and_congr_right fun _ => ?_
  rcases Nat.lt_or_ge b 3 with hlow | hlow
  · rw [State.conditionWord_low rfl rfl rfl hlow]
    simp only [Bool.false_eq_true, and_false, false_iff]
    rintro ⟨a, ha, -⟩
    omega
  rcases Nat.lt_or_ge b 7 with hreach | hhigh
  · obtain ⟨a, rfl⟩ : ∃ a : Fin 4, b = 3 + a.1 := ⟨⟨b - 3, by omega⟩, by simp; omega⟩
    rw [levelWord_reach, State.conditionWord_reach]
    simp only [Nat.add_left_cancel_iff, Fin.val_inj, exists_eq_left']
  · rw [levelWord_high _ hhigh]
    simp only [Bool.false_eq_true, false_and, false_iff]
    rintro ⟨a, ha, -⟩
    omega

/-- Outside LOADING a RESTART is taken (R163, R186). -/
theorem exec_restart {s : State} (h : s.station ≠ .loading) (t : Time) : exec (.restart t) s = .next (
    match s.record with
    | some r => ((s.advance t).resetBlocks.acceptRecord r).settle.ok
    | none => (s.advance t).resetBlocks.awaitConfig.ok) := by
  have htaken : portRefusal .restart s.station = none := by
    cases hstation : s.station with
    | loading => exact absurd hstation h
    | awaitingConfig | running | silent => rfl
  simp only [exec, execRestart, State.port, State.advance_station, htaken]
  rfl

/-- Settles O4: POWER_ON and RESET_LINE are read off; RESTART returns every block to reset values, and then awaits a
configuration or accepts the record it kept. -/
theorem resetsReturnEveryBlock : Obligations.ResetsReturnEveryBlock := by
  refine ⟨fun t s => ⟨rfl, rfl⟩, fun t s h => ⟨fun hrecord => ?_, fun r hrecord => ?_⟩⟩ <;>
    rw [exec_restart h, hrecord]
  · rfl
  · have haccepted := accepted_taken (s.advance t).resetBlocks r false
    exact ⟨_, rfl, rfl, accepted_answer haccepted _, rfl, rfl, fun b hb => taken_resetBlocks_status (s.advance t) r hb⟩

end Sys2Proof.Machine
end

section
namespace Sys2Proof.Machine

/-! ### The judgement by station state (R162, R163) -/

/-- A command to which R163's table gives an answer goes through the judgement by station state, and the judgement is
the table's. -/
theorem lampAnswer_refused {c : Instr} {s : State} {code : Byte} (h : Claim.lampAnswer c s.station = some code) :
    ∃ k effect r, exec c s = .next ((s.advance c.time).port k effect) ∧ portRefusal k s.station = some r
      ∧ r.code = code := by
  have judged (k : PortClass) (effect : State → State) (he : exec c s = .next ((s.advance c.time).port k effect))
      (hk : Claim.lampAnswer c s.station = (portRefusal k s.station).map Result.code) :
      ∃ k effect r, exec c s = .next ((s.advance c.time).port k effect) ∧ portRefusal k s.station = some r
        ∧ r.code = code := by
    obtain ⟨r, hr, hcode⟩ := Option.map_eq_some_iff.1 (hk ▸ h)
    exact ⟨k, effect, r, he, hr, hcode⟩
  cases c with
  | configure t bytes =>
    by_cases hshort : bytes.length < 47
    · cases hstation : s.station <;> simp [Claim.lampAnswer, hstation, hshort] at h
    · refine judged .configure _ (if_neg hshort) ?_
      cases s.station <;> simp [Claim.lampAnswer, hshort, portRefusal, Result.code]
  | submit _ _ _ _ _ _ => exact judged .submit _ rfl (by cases s.station <;> rfl)
  | originStatus _ _ | fetch _ _ | release _ | readEvents _ | clearEvents _ _ | setEvents _ _ _ _ | readTable _
  | readStats _ _ | stopSurvey _ | readSurvey _ _ => exact judged .other _ rfl (by cases s.station <;> rfl)
  | silence _ => exact judged .silence _ rfl (by cases s.station <;> rfl)
  | resume _ => exact judged .resume _ rfl (by cases s.station <;> rfl)
  | survey _ _ _ _ _ => exact judged .survey _ rfl (by cases s.station <;> rfl)
  | restart _ => exact judged .restart _ rfl (by cases s.station <;> rfl)
  | _ => simp [Claim.lampAnswer] at h

/-- A command that R163's table does not let be taken is answered and has no effect. -/
theorem exec_refused {c : Instr} {s : State} {code : Byte} (h : Claim.lampAnswer c s.station = some code) :
    exec c s = .next (Claim.answered s c.time [code]) := by
  obtain ⟨k, effect, r, he, hr, rfl⟩ := lampAnswer_refused h
  rw [he, State.port, State.advance_station, hr]
  rfl

/-- A byte outside R162's table is answered BAD_COMMAND. -/
theorem exec_badCommand {code : Byte} (h : code ∉ commandCodes) (t : Time) (s : State) :
    exec (.badCommand t code) s = .next (Claim.answered s t [0x03]) := by
  have hunknown : commandCodes.contains code = false := by simpa using h
  simp only [exec, execBadCommand, hunknown, Bool.false_eq_true, if_false]
  rfl

/-! ### Bytes that spell a command (R161, R162) -/

/-- The command byte `code` takes exactly the argument bytes `args`: whatever follows them is not counted, and no fewer
complete the command (R161, R162). -/
structure LaidOut (code : Byte) (args : List Byte) : Prop where
  complete : ∀ more, argumentCount code (args ++ more) = some args.length
  waiting : ∀ k, k < args.length → ∀ n, argumentCount code (args.take k) = some n → k < n

/-- A command whose argument count its byte alone decides. -/
theorem LaidOut.of_count {code : Byte} {args : List Byte} (h : ∀ l, argumentCount code l = some args.length) :
    LaidOut code args where
  complete more := h _
  waiting k hk n hn := by
    obtain rfl := Option.some.inj ((h _).symm.trans hn)
    exact hk

/-- SUBMIT: its sixth argument byte says how many follow (R162). -/
theorem LaidOut.submit (a b c d e : Byte) {payload : List Byte} (h : payload.length ≤ 255) :
    LaidOut 0x10 ([a, b, c, d, e, BitVec.ofNat 8 payload.length] ++ payload) where
  complete more := by
    have hlen : payload.length % 256 = payload.length := Nat.mod_eq_of_lt (by omega)
    simp [argumentCount, hlen]
    omega
  waiting k hk n hn := by
    obtain ⟨length, hlength, rfl⟩ := Option.map_eq_some_iff.1 hn
    rw [List.getElem?_take] at hlength
    split at hlength
    · obtain rfl : BitVec.ofNat 8 payload.length = length := by simpa using hlength
      have hlen : payload.length % 256 = payload.length := Nat.mod_eq_of_lt (by omega)
      simp only [List.length_append, List.length_cons, List.length_nil, BitVec.toNat_ofNat] at hk ⊢
      omega
    · cases hlength

/-- A byte outside R162's table takes no argument bytes. -/
theorem argumentCount_unknown {code : Byte} (h : code ∉ commandCodes) (l : List Byte) :
    argumentCount code l = some 0 := by
  have hsubmit : code ≠ 0x10#8 := fun hcode => h (hcode ▸ by decide)
  have hlisted : ∀ r ∈ argumentCounts, r.1 ∈ commandCodes := by decide
  have hnone : argumentCounts.find? (fun r => r.1 = code) = none :=
    List.find?_eq_none.2 fun r hr hcode => h (of_decide_eq_true hcode ▸ hlisted r hr)
  rw [argumentCount, if_neg hsubmit, hnone]

/-- A byte outside R162's table is BAD_COMMAND. -/
theorem commandOf_unknown {code : Byte} (h : code ∉ commandCodes) (t : Time) (l : List Byte) :
    commandOf t code l = .badCommand t code := by
  simp only [commandCodes, List.mem_cons, List.not_mem_nil, or_false, not_or, BitVec.ofNat_eq_ofNat] at h
  simp [commandOf, h]

/-- Two bytes make a word, most-significant byte first (R161). -/
theorem word_of_bytes (w : BitVec 16) : (w.extractLsb' 8 8 ++ w.setWidth 8 : BitVec 16) = w := by
  ext k hk
  simp only [BitVec.getElem_append, BitVec.getElem_extractLsb', BitVec.getElem_setWidth, BitVec.getLsbD_eq_getElem hk]
  split
  · rfl
  · rw [show 8 + (k - 8) = k by omega, BitVec.getLsbD_eq_getElem hk]

/-- The bytes of R162's layout are a command byte and its argument bytes, and spell the command they were laid out
for. -/
theorem clockedIn_laidOut {c : Instr} {bytes : List Byte} (hw : c.wellFormed = true)
    (h : Claim.clockedIn c = some bytes) :
    ∃ code args, bytes = code :: args ∧ LaidOut code args ∧ commandOf c.time code args = c := by
  cases c with
  | status _ | release _ | readEvents _ | readTable _ | silence _ | resume _ | stopSurvey _ | restart _
  | originStatus _ _ | fetch _ _ | readStats _ _ | readSurvey _ _ =>
    cases h
    exact ⟨_, _, rfl, .of_count fun _ => rfl, rfl⟩
  | clearEvents t w =>
    cases h
    exact ⟨_, _, rfl, .of_count fun _ => rfl, congrArg (Instr.clearEvents t) (word_of_bytes w)⟩
  | setEvents t w modes l =>
    cases h
    refine ⟨_, _, rfl, .of_count fun _ => rfl, ?_⟩
    exact congrArg₂ (Instr.setEvents t · modes ·) (word_of_bytes w) (word_of_bytes l)
  | survey t count interval rate fill =>
    cases h
    refine ⟨_, _, rfl, .of_count fun _ => rfl, ?_⟩
    exact congrArg₂ (Instr.survey t · · rate fill) (word_of_bytes count) (word_of_bytes interval)
  | configure t args =>
    cases h
    have hlen : args.length = 47 := of_decide_eq_true hw
    exact ⟨_, _, rfl, .of_count fun _ => congrArg some hlen.symm, rfl⟩
  | submit t discipline target dest hops payload =>
    cases h
    refine ⟨_, _, rfl, .submit _ _ _ _ _ (of_decide_eq_true hw), ?_⟩
    exact congrArg (Instr.submit t discipline target · hops payload) (word_of_bytes dest)
  | badCommand t code =>
    cases h
    have hunknown : code ∉ commandCodes := by simpa [Instr.wellFormed] using hw
    exact ⟨_, _, rfl, .of_count (argumentCount_unknown hunknown), commandOf_unknown hunknown t _⟩
  | _ => cases h

section LaidOut

variable {code : Byte} {args : List Byte}

/-- Once the last argument byte is in, the command has its length, whatever follows (R161). -/
theorem LaidOut.commandLength (h : LaidOut code args) (more : List Byte) :
    commandLength (code :: args ++ more) = some (code :: args).length := by
  simp only [List.cons_append, Sys2Proof.commandLength, h.complete more, Option.bind_some, List.length_append,
    List.length_cons]
  rw [if_pos (by omega), Nat.add_comm]

/-- Before the last argument byte is in, no command is complete (R161). -/
theorem LaidOut.commandLength_take (h : LaidOut code args) {k : Nat} (hk : k < (code :: args).length) :
    Sys2Proof.commandLength ((code :: args).take k) = none := by
  cases k with
  | zero => rfl
  | succ k =>
    have hk' : k < args.length := by simpa using hk
    rw [List.take_succ_cons, Sys2Proof.commandLength, Option.bind_eq_none_iff]
    intro n hn
    have := h.waiting k hk' n hn
    rw [if_neg]
    simp only [List.length_take]
    omega

/-- What follows the last argument byte is ignored (R161). -/
theorem LaidOut.decodeTransaction (h : LaidOut code args) (t : Time) (more : List Byte) :
    decodeTransaction t (code :: args ++ more) = some (commandOf t code args) := by
  rw [Sys2Proof.decodeTransaction, h.commandLength more, Option.map_some, List.take_left]
  rfl

/-- A transaction that ends before the last argument byte is discarded (R161). -/
theorem LaidOut.discarded (h : LaidOut code args) (t ended : Time) {k : Nat} (hk : k < (code :: args).length) :
    Sys2Proof.decodeTransaction t ((code :: args).take k) = none
      ∧ transactionCommands t ended ((code :: args).take k) = [.lselRiseAbort ended] := by
  have hnone : Sys2Proof.decodeTransaction t ((code :: args).take k) = none := by
    rw [Sys2Proof.decodeTransaction, h.commandLength_take hk]
    rfl
  exact ⟨hnone, by rw [transactionCommands, hnone]⟩

end LaidOut

/-! ### LDO (R161) -/

theorem lampClocked_risen (edges : List LampEdge) : (lampClocked edges).1 = Claim.risen edges :=
  lampClocked_sampled edges

/-- From the last argument byte on LDO sends the answer, byte by byte, and before it 00 hex (R161). -/
theorem LaidOut.ldo {code : Byte} {args : List Byte} (h : LaidOut code args) (s : State) (edges : List LampEdge) :
    (∀ more, bytesOfBits (Claim.risen edges) = code :: args ++ more → s.ldo false (edges ++ [.fall])
        = some ((s.response.getD more.length 0x00).getMsbD ((Claim.risen edges).length % 8)))
      ∧ ∀ k, k < (code :: args).length → bytesOfBits (Claim.risen edges) = (code :: args).take k →
        s.ldo false (edges ++ [.fall]) = some false := by
  rw [State.ldo_fall, lampClocked_risen]
  refine ⟨fun more hbytes => ?_, fun k hk hbytes => ?_⟩
  · rw [hbytes, State.ldoByte_after (h.commandLength more), List.length_append, Nat.add_sub_cancel_left]
  · rw [hbytes, State.ldoByte_before (h.commandLength_take hk)]
    simp

/-- Before the first falling edge LDO carries the first bit of 00 hex (R161). -/
theorem State.ldo_nil (s : State) : s.ldo false [] = some false := by
  have hbyte : s.ldoByte [] = 0 := State.ldoByte_before rfl
  simp [State.ldo, lampClocked, bytesOfBits, hbyte]

/-- Settles O38: a refused command goes through the judgement by station state; a command's bytes are laid out so that
they complete it with the last of them; LDO follows the bytes sampled at the last falling edge. -/
theorem stationStateJudgesCommands : Obligations.StationStateJudgesCommands := by
  refine ⟨fun c s code h => exec_refused h, fun t code s => ⟨fun h => exec_badCommand h t s, rfl⟩,
    fun c bytes hw h => ?_, fun s edges => ⟨rfl, s.ldo_nil, s.ldo_rise false edges, fun taken ended => ?_⟩⟩
  · obtain ⟨code, args, rfl, hlaid, hcommand⟩ := clockedIn_laidOut hw h
    refine ⟨fun more => ?_, fun k hk ended => hlaid.discarded c.time ended hk, fun s edges more => ?_⟩
    · rw [hlaid.decodeTransaction, hcommand]
    · obtain ⟨hafter, hbefore⟩ := hlaid.ldo s edges
      exact ⟨hafter more, hbefore⟩
  · rw [State.transact, lampClocked_risen]

end Sys2Proof.Machine
end

section
namespace Sys2Proof.Machine

/-! ### Numbers in bytes, most-significant byte first (R161) -/

/-- A number in two bytes. -/
theorem bigEndian_two (n : Nat) : bigEndian 2 n = [BitVec.ofNat 8 (n / 256), BitVec.ofNat 8 n] := by
  simp [bigEndian]

/-- A number in three bytes. -/
theorem bigEndian_three (n : Nat) :
    bigEndian 3 n = [BitVec.ofNat 8 (n / 65536), BitVec.ofNat 8 (n / 256), BitVec.ofNat 8 n] := by
  simp [bigEndian]

/-- The two bytes of a number are those of its low 16 bits. -/
theorem bigEndian_ofNat (n : Nat) :
    bigEndian 2 n = [(BitVec.ofNat 16 n).extractLsb' 8 8, (BitVec.ofNat 16 n).setWidth 8] := by
  have hhigh : BitVec.ofNat 8 (n / 256) = (BitVec.ofNat 16 n).extractLsb' 8 8 := by
    apply BitVec.eq_of_toNat_eq
    simp only [BitVec.toNat_ofNat, BitVec.extractLsb'_toNat, Nat.shiftRight_eq_div_pow]
    omega
  have hlow : BitVec.ofNat 8 n = (BitVec.ofNat 16 n).setWidth 8 := by
    apply BitVec.eq_of_toNat_eq
    simp only [BitVec.toNat_ofNat, BitVec.toNat_setWidth]
    omega
  rw [bigEndian_two, hhigh, hlow]

/-- A word in two bytes. -/
theorem bigEndian_word (w : BitVec 16) : bigEndian 2 w.toNat = [w.extractLsb' 8 8, w.setWidth 8] := by
  rw [bigEndian_ofNat, BitVec.ofNat_toNat, BitVec.setWidth_eq]

/-- A SURVEY sequence number in two bytes (R5, R178). -/
theorem bigEndian_sequence (q : BitVec 14) :
    bigEndian 2 q.toNat = [(q.setWidth 16).extractLsb' 8 8, q.setWidth 8] := by
  rw [bigEndian_ofNat, BitVec.ofNat_toNat, BitVec.setWidth_setWidth_of_le _ (by decide)]

/-- Four ranks in eight bytes, anchor 0 first (R162). -/
theorem bigEndian_ranks (v : Vector Rank 4) : (v.toList.flatMap fun r => bigEndian 2 r.toNat)
    = [(v[0].setWidth 16).extractLsb' 8 8, v[0].setWidth 8, (v[1].setWidth 16).extractLsb' 8 8, v[1].setWidth 8,
      (v[2].setWidth 16).extractLsb' 8 8, v[2].setWidth 8, (v[3].setWidth 16).extractLsb' 8 8, v[3].setWidth 8] := by
  have hlist : v.toList = [v[0], v[1], v[2], v[3]] := by
    obtain ⟨⟨l⟩, hl⟩ := v
    match l, hl with
    | [_, _, _, _], _ => rfl
  rw [hlist]
  simp only [List.flatMap_cons, List.flatMap_nil, bigEndian_serial, List.cons_append, List.nil_append, List.append_nil]

/-- Four decimal digits in two bytes, one per half-byte (R179). -/
theorem bigEndian_bcd4 (n : Nat) : bigEndian 2 (bcd4 n)
    = [BitVec.ofNat 8 (n / 1000 % 10 * 16 + n / 100 % 10), BitVec.ofNat 8 (n / 10 % 10 * 16 + n % 10)] := by
  have hhigh : bcd4 n / 256 = n / 1000 % 10 * 16 + n / 100 % 10 := by
    unfold bcd4
    omega
  have hlow : BitVec.ofNat 8 (bcd4 n) = BitVec.ofNat 8 (n / 10 % 10 * 16 + n % 10) := by
    apply BitVec.eq_of_toNat_eq
    simp only [BitVec.toNat_ofNat, bcd4]
    omega
  rw [bigEndian_two, hhigh, hlow]

/-! ### STATUS (R164) -/

/-- STATUS is answered in every station state (R163, R164). -/
theorem exec_status (t : Time) (s : State) :
    exec (.status t) s = .next (Claim.answered s t (0x00 :: s.statusBytes)) := by
  cases hstation : s.station <;> simp only [exec, execStatus, State.port, State.advance_station, hstation] <;> rfl

/-- Settles O39: the answer's bytes are read off, and before RUNNING every field but the station state is at its reset
value. -/
theorem statusReports : Obligations.StatusReports := by
  intro t s
  have hstatus := exec_status t s
  rw [State.statusBytes, bigEndian_ranks] at hstatus
  refine ⟨?_, fun hstart hbefore => ?_⟩
  · rw [hstatus]
    cases s.station <;> cases s.rate <;> rfl
  · obtain ⟨-, -, -, -, -, -, -, hranks, -, -, -, hhold, -, -, hfree, -, hpower, hrate, -, -, hring, -⟩ :=
      hstart.atReset hbefore
    have hcount : s.holdCount = 0 := by
      rw [State.holdCount, hhold]
      rfl
    rw [hranks, hcount, hfree, hring, hrate, hpower] at hstatus
    exact ⟨_, hstatus⟩

/-! ### READ_TABLE and READ_STATS (R165, R179) -/

/-- A number spelled by bits has them from its highest bit on. -/
theorem natOfBits_getMsbD {w : Nat} {bits : List Bool} (hlen : bits.length = w) {k : Nat} (hk : k < w) :
    (BitVec.ofNat w (natOfBits bits)).getMsbD k = bits[k] := by
  subst hlen
  rw [BitVec.getMsbD, BitVec.getLsbD_ofNat, natOfBits_testBit, List.getD_eq_getElem?_getD,
    List.getElem?_reverse (by omega), show bits.length - 1 - (bits.length - 1 - k) = k by omega,
    List.getElem?_eq_getElem hk]
  simp only [hk, show bits.length - 1 - k < bits.length by omega, decide_true, Bool.true_and, Option.getD_some]

/-- The marks of READ_TABLE are the bits of a history, newest first (R162). -/
theorem marksWord_eq (h : List Mark) :
    marksWord h = natOfBits ((List.range 16).map fun i => decide (h[i]? = some .heard)) := by
  rw [natOfBits, List.foldl_map, marksWord]
  congr 1
  funext w i
  by_cases hi : h[i]? = some .heard <;> simp [hi]

/-- The marks of READ_TABLE, mark by mark (R162). -/
theorem marksWord_getMsbD (h : List Mark) {k : Nat} (hk : k < 16) :
    (BitVec.ofNat 16 (marksWord h)).getMsbD k = decide (h[k]? = some .heard) := by
  rw [marksWord_eq, natOfBits_getMsbD (by simp) hk, List.getElem_map, List.getElem_range]

/-- READ_TABLE answers with the slot at the cursor and moves the cursor on (R165). -/
theorem exec_readTable {s : State} (h : s.station = .running ∨ s.station = .silent) (t : Time) :
    exec (.readTable t) s = .next { Claim.answered s t (0x00 :: (s.advance t).tableBytes) with
      tableCursor := s.tableCursor + 1 } := by
  simp only [exec, execReadTable, State.port_other (s := s.advance t) h]
  rfl

/-- READ_STATS answers with the counters, and clears them with the flag set (R179). -/
theorem exec_readStats {s : State} (h : s.station = .running ∨ s.station = .silent) (t : Time) (clear : Byte) :
    exec (.readStats t clear) s = .next { Claim.answered s t (0x00 :: s.stats.bytes) with
      stats := if clear = 0 then s.stats else Stats.zero } := by
  simp only [exec, execReadStats, State.port_other (s := s.advance t) h]
  rfl

/-- Settles O40: what the slot at the cursor holds decides the answer, whose bytes are read off. -/
theorem readTableAndStatsReport : Obligations.ReadTableAndStatsReport := by
  refine ⟨fun t s h => ⟨fun hempty => ?_, fun n hn => ?_⟩, fun t clear s h => ?_⟩
  · have hbytes : (s.advance t).tableBytes = BitVec.ofNat 8 s.tableCursor.1 :: List.replicate 24 0 := by
      simp only [State.tableBytes, State.advance_table, State.advance_tableCursor, hempty]
      rfl
    rw [exec_readTable h, hbytes]
  · refine ⟨BitVec.ofNat 16 (marksWord n.history), fun k hk => marksWord_getMsbD n.history hk, ?_⟩
    have hbytes : (s.advance t).tableBytes = BitVec.ofNat 8 s.tableCursor.1 :: n.tableBytes (max s.now t / 96) := by
      simp only [State.tableBytes, State.advance_table, State.advance_tableCursor, hn]
      rfl
    rw [exec_readTable h, hbytes, Neighbour.tableBytes, bigEndian_word, bigEndian_ofNat, bigEndian_ranks,
      bigEndian_three]
    cases n.standing <;> rfl
  · rw [exec_readStats h, Stats.bytes, bigEndian_bcd4]
    simp only [bigEndian_two]
    rfl

/-! ### READ_SURVEY (R178) -/

/-- READ_SURVEY answers with the tally, and empties it with the flag set (R178). -/
theorem exec_readSurvey {s : State} (h : s.station = .running ∨ s.station = .silent) (t : Time) (clear : Byte) :
    exec (.readSurvey t clear) s = .next { Claim.answered s t (0x00 :: tallyBytes s.tally) with
      tally := if clear = 0 then s.tally else none } := by
  simp only [exec, execReadSurvey, State.port_other (s := s.advance t) h]
  rfl

/-- Settles O41: the answer's bytes are those of the tally, read off by whether it is empty. -/
theorem readSurveyReportsTheTally : Obligations.ReadSurveyReportsTheTally := by
  refine fun t clear s h => ⟨_, exec_readSurvey h t clear, fun hempty => ?_, fun y hy _ _ _ => ?_⟩
  · rw [hempty]
    rfl
  · rw [hy, tallyBytes, bigEndian_word, bigEndian_sequence, bigEndian_sequence, bigEndian_two, bigEndian_two]
    rfl

/-! ### FETCH and RELEASE (R125, R126, R148, R149, R166) -/

/-- The fields of the ring's head, byte by byte (R146, R162). -/
theorem Delivery.bytes_eq (d : Delivery) : d.bytes = [d.ident.origin.extractLsb' 8 8, d.ident.origin.setWidth 8,
    (d.ident.serial.setWidth 16).extractLsb' 8 8, d.ident.serial.setWidth 8,
    (match d.goal.discipline with | .upward => 0 | .spread => 1), d.goal.target, d.sender.extractLsb' 8 8,
    d.sender.setWidth 8, d.hops.setWidth 8, BitVec.ofNat 8 d.length] := by
  rw [Delivery.bytes, bigEndian_word, bigEndian_serial, bigEndian_word]
  cases d.goal.discipline <;> simp [disciplineCode, byteOf]

/-- The payload bytes FETCH reports, one by one (R125, R126). -/
theorem State.fetchBytes_spec (s : State) (d : Delivery) (start n : Nat) : (s.fetchBytes d start n).length = n
    ∧ ∀ j, j < n → (s.fetchBytes d start n)[j]?
      = some (if d.length = 0 then 0 else chainByte s.mem d.chain ((start + j) % d.length)) := by
  refine ⟨by simp [State.fetchBytes], fun j hj => ?_⟩
  rw [State.fetchBytes, List.getElem?_map, List.getElem?_range hj]
  rfl

section Ring

variable {s : State} {d : Delivery} {rest : List Delivery}

/-- FETCH of a ring with a head (R125, R166). -/
theorem exec_fetch (h : s.station = .running ∨ s.station = .silent) (hring : s.ring = d :: rest) (t : Time) (n : Byte) :
    exec (.fetch t n) s = .next { s.advance t with
      cursor := cursorAfter s.cursor (fetchCount n) d.length
      response := 0x00 :: d.bytes ++ s.fetchBytes d s.cursor (fetchCount n)
      fetching := some ⟨s.cursor, fetchCount n⟩ } := by
  simp only [exec, execFetch, State.port_other (s := s.advance t) h, State.advance_ring, hring]
  rfl

/-- A FETCH ended early has moved the cursor by the bytes supplied alone (R126). -/
theorem exec_endedEarly {f : Fetching} {supplied : Nat} (hfetching : s.fetching = some f) (hring : s.ring = d :: rest)
    (hfewer : supplied < f.count) (t : Time) : exec (.transactionEndedEarly t supplied) s = .next { s.advance t with
      cursor := cursorAfter f.start supplied d.length
      response := s.response.take (11 + supplied)
      fetching := none } := by
  simp only [exec, execTransactionEndedEarly, State.advance_fetching, State.advance_ring, hfetching, hring,
    if_pos hfewer]
  rfl

/-- RELEASE of a ring with a head (R124, R148). -/
theorem exec_release (h : s.station = .running ∨ s.station = .silent) (hring : s.ring = d :: rest) (t : Time) :
    exec (.release t) s = .next (State.freeChain { s.advance t with ring := rest, cursor := 0 } d.chain).settle.ok := by
  simp only [exec, execRelease, State.port_other (s := s.advance t) h, State.advance_ring, hring]

end Ring

/-- FETCH and RELEASE of an empty ring are answered EMPTY (R148, R166). -/
theorem exec_ring_empty {s : State} (h : s.station = .running ∨ s.station = .silent) (hring : s.ring = []) (t : Time) :
    (∀ n, exec (.fetch t n) s = .next (Claim.answered s t [0x08]))
      ∧ exec (.release t) s = .next (Claim.answered s t [0x08]) := by
  constructor
  · intro n
    simp only [exec, execFetch, State.port_other (s := s.advance t) h, State.advance_ring, hring]
    rfl
  · simp only [exec, execRelease, State.port_other (s := s.advance t) h, State.advance_ring, hring]
    rfl

/-- Settles O45: the ring's head decides; the early end counts from the cursor that its FETCH began at. -/
theorem fetchAndRelease : Obligations.FetchAndRelease := by
  refine ⟨fun t n s h => ⟨fun hring => (exec_ring_empty h hring t).left n, fun d rest hring => ?_⟩,
    fun t s h => ⟨fun hring => (exec_ring_empty h hring t).right, fun d rest hring => ?_⟩⟩
  · obtain ⟨hlength, hbytes⟩ := s.fetchBytes_spec d s.cursor (fetchCount n)
    refine ⟨_, s.fetchBytes d s.cursor (fetchCount n), exec_fetch h hring t n, ?_, hlength, hbytes, rfl, rfl,
      fun t' supplied hfewer => ⟨_, exec_endedEarly (rest := rest) rfl ?_ hfewer t', rfl, rfl⟩⟩
    · dsimp only
      rw [d.bytes_eq]
      rfl
    · exact hring
  · exact ⟨_, exec_release h hring t, rfl⟩

/-! ### The indicator (R173) -/

/-- IND by station state and indicator mode (R173). -/
theorem State.ind_spec (s : State) : (s.station = .loading → s.ind = false)
    ∧ (s.station = .awaitingConfig → (s.ind = true ↔ ∃ a, s.alternation = some a ∧ a.on = true))
    ∧ (s.station = .running ∨ s.station = .silent →
      (s.cfg.indicatorMode = .off → s.ind = false)
      ∧ (s.cfg.indicatorMode = .reach → (s.ind = true ↔ s.ranks[0] ≠ 4095))
      ∧ (s.cfg.indicatorMode = .activity → (s.ind = true ↔ ∃ d, s.stretch = some d))
      ∧ (s.cfg.indicatorMode = .combined → (s.ind = true ↔ s.ranks[0] ≠ 4095 ∧ s.stretch = none))) := by
  refine ⟨fun h => ?_, fun h => ?_, fun h => ⟨fun hmode => ?_, fun hmode => ?_, fun hmode => ?_, fun hmode => ?_⟩⟩
  · simp only [State.ind, h]
  · simp only [State.ind, h, Option.any_eq_true]
  · rcases h with h | h <;> simp only [State.ind, h, hmode]
  · rcases h with h | h <;> simp only [State.ind, h, hmode, decide_eq_true_iff] <;> exact .rfl
  · rcases h with h | h <;> simp only [State.ind, h, hmode, Option.isSome_iff_exists]
  · rcases h with h | h <;> simp [State.ind, h, hmode]

/-- Settles O36: each timer's row has its effect once its deadline has come; the indicator is read off. -/
theorem indicatorTimersRun : Obligations.IndicatorTimersRun := by
  refine ⟨fun t s => ⟨fun d hd hover => ?_, fun a ha hover => ?_⟩, State.ind_spec⟩
  · simp only [exec, execStretchExpiry, State.advance_stretch, hd, State.advance_nowMs]
    exact if_pos hover
  · simp only [exec, execIndicatorAlternation, State.advance_alternation, ha, State.advance_nowMs]
    exact if_pos hover

end Sys2Proof.Machine
end

section
namespace Sys2Proof.Machine

/-! ### The load's poll (R181, R182) -/

/-- What a status byte does to a load that polls: the read begins where bit 0 is clear within 25 ms (R182). -/
theorem exec_configStatusPoll {s : State} {since : Millis} (h : s.loader = .polling since) (t : Time) (status : Byte) :
    exec (.configStatusPoll t status) s = .next (
      if status.getLsbD 0 = false ∧ max s.now t / 96 ≤ since + 25 then { s.advance t with loader := .reading }
      else s.advance t) := by
  simp only [exec, execConfigStatusPoll, State.advance_loader, h]
  exact (apply_ite Host.Outcome.next _ _ _).symm

/-- From 25 ms after the start of the poll on, the load may end without a record (R182). -/
theorem exec_configLoadTimeout {s : State} {since : Millis} (h : s.loader = .polling since) {t : Time}
    (hover : since + 25 ≤ max s.now t / 96) :
    exec (.configLoadTimeout t) s = .next (s.advance t).awaitConfig := by
  simp only [exec, execConfigLoadTimeout, State.advance_loader, h]
  exact if_pos hover

/-- The release of the reset begins the load, its 25 ms counted from the present millisecond (R181, R182). -/
theorem exec_resetRelease {s : State} (hheld : s.loader = .held) (hstation : s.station = .loading) (t : Time) :
    exec (.resetRelease t) s = .next { s.advance t with loader := .polling (max s.now t / 96) } := by
  calc exec (.resetRelease t) s
    _ = .next { s.advance t with station := .loading, loader := .polling (max s.now t / 96) } := if_pos hheld
    _ = .next { s.advance t with loader := .polling (max s.now t / 96) } := by rw [← hstation]; rfl

/-! ### CMSEL, CMCLK and CMDO (R182) -/

/-- What a status read sends and clocks in. -/
theorem State.memoryLayout_polling {s : State} {since : Millis} (h : s.loader = .polling since) :
    s.memoryOut = [0x05] ∧ s.memoryIn = 1 ∧ s.memoryBits = 16 := by
  have hout : s.memoryOut = [0x05] := by rw [State.memoryOut, h]
  have hin : s.memoryIn = 1 := by rw [State.memoryIn, h]
  exact ⟨hout, hin, by rw [State.memoryBits, hout, hin]; rfl⟩

/-- What the data read sends and clocks in. -/
theorem State.memoryLayout_reading {s : State} (h : s.loader = .reading) :
    s.memoryOut = [0x03, 0x00, 0x00] ∧ s.memoryIn = 48 ∧ s.memoryBits = 408 := by
  have hout : s.memoryOut = [0x03, 0x00, 0x00] := by rw [State.memoryOut, h]
  have hin : s.memoryIn = 48 := by rw [State.memoryIn, h]
  exact ⟨hout, hin, by rw [State.memoryBits, hout, hin]; rfl⟩

/-- CMSEL is low for two half periods in each bit of a transaction. -/
theorem State.memorySelected_some (s : State) (half : Nat) :
    s.memorySelected (some half) = true ↔ half < 2 * s.memoryBits := by
  simp [State.memorySelected]

/-- CMCLK is high in the second half of each bit of a transaction. -/
theorem State.memoryClock_some (s : State) (half : Nat) :
    s.memoryClock (some half) = true ↔ half < 2 * s.memoryBits ∧ half % 2 = 1 := by
  simp [State.memoryClock, State.memorySelected_some]

/-- Where the loader sends no byte and clocks none in, the pins idle. -/
theorem State.memoryPins_idle {s : State} (h : s.loader = .held ∨ s.loader = .idle) (half : Nat) :
    s.memorySelected (some half) = false ∧ s.memoryClock (some half) = false ∧ s.memoryData (some half) = none := by
  rcases h with h | h <;>
    simp [State.memorySelected, State.memoryClock, State.memoryData, State.memoryBits, State.memoryOut,
      State.memoryIn, h]

/-- The pins over a status read: 16 bits, 05 hex in the first eight. -/
theorem State.memoryPins_polling {s : State} {since : Millis} (h : s.loader = .polling since) (half : Nat) :
    (s.memorySelected (some half) = true ↔ half < 32)
      ∧ (s.memoryClock (some half) = true ↔ half < 32 ∧ half % 2 = 1)
      ∧ s.memoryData (some half) = if half < 16 then some ((0x05#8).getMsbD (half / 2)) else none := by
  obtain ⟨hout, -, hbits⟩ := State.memoryLayout_polling h
  rw [State.memorySelected_some, State.memoryClock_some, hbits]
  refine ⟨.rfl, .rfl, ?_⟩
  simp only [State.memoryData, hout, Option.bind_some, List.length_singleton, Nat.mul_one]
  refine if_ctx_congr .rfl (fun hsent => ?_) fun _ => rfl
  rw [show half / 16 = 0 by omega, show half / 2 % 8 = half / 2 by omega]
  rfl

/-- The pins over the data read: 408 bits, 03 hex and 0000 hex in the first 24. -/
theorem State.memoryPins_reading {s : State} (h : s.loader = .reading) (half : Nat) :
    (s.memorySelected (some half) = true ↔ half < 816)
      ∧ (s.memoryClock (some half) = true ↔ half < 816 ∧ half % 2 = 1)
      ∧ s.memoryData (some half) = if half < 48 then some ((0x030000#24).getMsbD (half / 2)) else none := by
  obtain ⟨hout, -, hbits⟩ := State.memoryLayout_reading h
  have hword : ∀ bit : Fin 24, (([0x03, 0x00, 0x00] : List Byte).getD (bit.1 / 8) 0x00).getMsbD (bit.1 % 8)
      = (0x030000#24).getMsbD bit.1 := by decide
  rw [State.memorySelected_some, State.memoryClock_some, hbits]
  refine ⟨.rfl, .rfl, ?_⟩
  simp only [State.memoryData, hout, Option.bind_some]
  refine if_ctx_congr .rfl (fun hsent => ?_) fun _ => rfl
  rw [show half / 16 = half / 2 / 8 by omega]
  exact congrArg some (hword ⟨half / 2, by omega⟩)

/-! ### CMDI (R182) -/

/-- The bytes clocked in are those whose bits CMDI carried after the bytes sent, most-significant bit first. -/
theorem State.memoryReceived_eq {s : State} {cmdi : List (Option Bool)} {driven : List Byte}
    (hcmdi : cmdi.length = s.memoryBits) (hdriven : driven.length = s.memoryIn)
    (hcarried : ∀ j k, j < s.memoryIn → k < 8 →
      cmdi[8 * (s.memoryOut.length + j) + k]?.map cmdiLevel = some ((driven.getD j 0).getMsbD k)) :
    s.memoryReceived cmdi = driven := by
  have hlen := State.memoryReceived_length hcmdi
  refine List.ext_getElem (hlen.trans hdriven.symm) fun j hj hj' => BitVec.eq_of_getMsbD_eq fun k hk => ?_
  have hbit : (cmdi.map cmdiLevel)[8 * (s.memoryOut.length + j) + k]?
      = some ((s.memoryReceived cmdi)[j].getMsbD k) := by
    have hplace : s.memoryOut.length + j < (cmdi.map cmdiLevel).length / 8 := by
      rw [List.length_map, hcmdi, State.memoryBits]
      omega
    rw [bytesOfBits_bit hplace hk, List.getD_eq_getElem _ _ (by simpa using hplace)]
    simp only [State.memoryReceived, List.getElem_drop]
  have hsaid := hcarried j k (hlen ▸ hj) hk
  rw [← List.getElem?_map, hbit, List.getD_eq_getElem _ _ hj'] at hsaid
  exact Option.some.inj hsaid

/-- A status read puts the byte that CMDI carried in the queue. -/
theorem State.memoryTransact_polling {s : State} {since : Millis} (h : s.loader = .polling since) (t : Time)
    {cmdi : List (Option Bool)} (hcmdi : cmdi.length = 16) {status : Byte}
    (hcarried : ∀ k, k < 8 → cmdi[8 + k]?.map cmdiLevel = some (status.getMsbD k)) :
    s.memoryTransact t cmdi = { s with pending := s.pending ++ [.configStatusPoll t status] } := by
  obtain ⟨hout, hin, hbits⟩ := State.memoryLayout_polling h
  have hwhole : cmdi.length = s.memoryBits := hcmdi.trans hbits.symm
  have hreceived : s.memoryReceived cmdi = [status] := by
    refine State.memoryReceived_eq hwhole hin.symm fun j k hj hk => ?_
    obtain rfl : j = 0 := by omega
    rw [hout]
    exact hcarried k hk
  rw [State.memoryTransact, State.memoryCommand, if_pos hwhole, h, hreceived]
  rfl

/-- The data read puts the 48 bytes that CMDI carried in the queue. -/
theorem State.memoryTransact_reading {s : State} (h : s.loader = .reading) (t : Time)
    {cmdi : List (Option Bool)} (hcmdi : cmdi.length = 408) {driven : List Byte} (hdriven : driven.length = 48)
    (hcarried : ∀ j k, j < 48 → k < 8 →
      cmdi[24 + 8 * j + k]?.map cmdiLevel = some ((driven.getD j 0).getMsbD k)) :
    s.memoryTransact t cmdi = { s with pending := s.pending ++ [.configReadDone t driven] } := by
  obtain ⟨hout, hin, hbits⟩ := State.memoryLayout_reading h
  have hwhole : cmdi.length = s.memoryBits := hcmdi.trans hbits.symm
  have hreceived : s.memoryReceived cmdi = driven := by
    refine State.memoryReceived_eq hwhole (hdriven.trans hin.symm) fun j k hj hk => ?_
    rw [hout, show 8 * (([0x03, 0x00, 0x00] : List Byte).length + j) + k = 24 + 8 * j + k by simp; omega]
    exact hcarried j k (hin ▸ hj) hk
  rw [State.memoryTransact, State.memoryCommand, if_pos hwhole, h, hreceived]
  rfl

/-- Settles O5: the poll's rows by bit 0 and the 25 ms, then the pins by what the loader does, half period by half
period, and what CMDI carried in a whole transaction. -/
theorem loadPollsForTwentyFiveMilliseconds : Obligations.LoadPollsForTwentyFiveMilliseconds := by
  refine ⟨fun t status since s => ⟨fun hheld hstation => exec_resetRelease hheld hstation t,
      fun hpolling hready hearly => ?_, fun hpolling hbusy => ?_, fun hpolling hlate => ?_,
      fun hpolling hover => exec_configLoadTimeout hpolling hover⟩,
    fun s => ⟨⟨rfl, rfl, rfl⟩, fun half hidle => State.memoryPins_idle hidle half,
      fun half since hpolling => State.memoryPins_polling hpolling half,
      fun half hreading => State.memoryPins_reading hreading half,
      fun t cmdi => ⟨fun since status hpolling hlen hbits => State.memoryTransact_polling hpolling t hlen hbits,
        fun driven hreading hlen hdriven hbits => State.memoryTransact_reading hreading t hlen hdriven hbits,
        rfl, fun level => rfl⟩⟩⟩ <;>
    rw [exec_configStatusPoll hpolling]
  · rw [if_pos ⟨hready, hearly⟩]
    rfl
  · rw [if_neg fun hready => Bool.false_ne_true (hready.1.symm.trans hbusy)]
    rfl
  · rw [if_neg fun hready => absurd hready.2 (Nat.not_le.2 hlate)]
    rfl

end Sys2Proof.Machine
end

section
namespace Sys2Proof.Machine

/-! ### What a command does (95_what_each_step_holds.md)

One inversion for all rows: what every command amounts to on the state at its time. The laws of the whole machine go
through it, so that no law walks the rows again. -/

/-- From `s` to `u` nothing changes but the time, the queue, the receiver, the pins, the lamp port, the load, the
indicator, the event unit and the burst record: nothing that a law of the blocks speaks of. -/
def Background (s u : State) : Prop :=
  u = { s with
    now := u.now, pending := u.pending, loader := u.loader, rx := u.rx, rftx := u.rftx, drive := u.drive
    cursor := u.cursor, tableCursor := u.tableCursor, response := u.response, fetching := u.fetching
    masks := u.masks, modes := u.modes, latches := u.latches, statuses := u.statuses, stretch := u.stretch
    alternation := u.alternation, burstRec := u.burstRec, unstated := u.unstated }

theorem Background.refl (s : State) : Background s s := rfl

theorem Background.advance (s : State) (t : Time) : Background s (s.advance t) := rfl

theorem Background.front (s : State) (rest : List Instr) (t : Time) :
    Background s ({ s with pending := rest }.advance t) := rfl

theorem Background.settle (s : State) : Background s s.settle := rfl

theorem Background.report (s : State) (src : Source) : Background s (s.report src) := rfl

theorem Background.answer (s : State) (bytes : List Byte) : Background s (s.answer bytes) := rfl

/-- What a command does to the state `s` at its time: nothing that a law speaks of, or what one row does when its event
occurs. -/
inductive Effect (s : State) : State → Prop where
  /-- The event does not occur (log 2), is answered alone, or reaches what no law speaks of. -/
  | aside {u : State} (h : Background s u) (htime : u.now = s.now ∧ u.pending = s.pending) : Effect s u
  /-- The answer to a command that had an effect (R161). -/
  | answered {u : State} (h : Effect s u) (bytes : List Byte) : Effect s (u.answer bytes)
  /-- POWER_ON, RESET_LINE (R181). -/
  | reset : Effect s s.resetBlocks
  /-- The load begins, or ends without a record (R181, R182). -/
  | loading {u : State} {station : Station} (hstation : station = .loading ∨ station = .awaitingConfig)
      (h : Background { s with station := station } u) (htime : u.now = s.now ∧ u.pending = s.pending) : Effect s u
  /-- A record is accepted (R182, R185). -/
  | accepted {bytes : Nat → Byte} (hnode : noStation (recordNode bytes) = false)
      (hload : s.loader = .reading ∨ s.station = .awaitingConfig) : Effect s (s.acceptBytes bytes)
  /-- RESTART without a record (R186). -/
  | cleared : Effect s s.resetBlocks.awaitConfig
  /-- RESTART with a record, which is accepted again (R186). -/
  | restarted {r : Record} (hr : s.record = some r) : Effect s (s.resetBlocks.acceptRecord r).settle
  /-- The channel is judged busy, by a unit that leaves the receiver at `rx` or by a level (R16). -/
  | judgedBusy (rx : Receiver) : Effect s (State.finish (State.judgeBusy { s with rx := rx }))
  /-- A frame is counted and discarded (R10, R12). -/
  | discarded {f : Stats → Stats} (hf : f = Stats.addBad ∨ f = Stats.addOwn) :
      Effect s (State.count { s with rx := .searching } f)
  | beaconTaken {h : BeaconHeader} {check : BitVec 16} {levels : List Int} (hgood : beaconBad h check levels = false)
      (hother : h.sender ≠ s.own) : Effect s (s.takeGood.takeBeacon h (marginOf levels)).finish
  | carryTaken {h : CarryHeader} {p : List Byte} {check : BitVec 16} {levels : List Int}
      (hgood : carryBad h p check levels = false) :
      Effect s ((s.takeGood.takeMargin h.sender (marginOf levels)).takeCarry h p).finish
  | hushTaken (h : HushHeader) (levels : List Int) :
      Effect s ((s.takeGood.takeMargin h.sender (marginOf levels)).takeHush h).finish
  | surveyTaken (h : SurveyHeader) (levels : List Int) :
      Effect s (s.takeGood.takeSurvey h (marginOf levels)).finish
  /-- CCA_MS pass clear (R16). -/
  | clear {a : Attempt} (ha : s.tx = some a) (hp : a.phase = .assessing) : Effect s (s.clearChannel a)
  /-- PREAMBLE or BODY begins (R17). -/
  | phase {a b : Attempt} {u : State} (ha : s.tx = some a) (hb : u.tx = some b) (hsame : b.owner = a.owner)
      (hpast : a.phase ≠ .assessing ∧ b.phase ≠ .assessing) (h : Background { s with tx := u.tx } u)
      (htime : u.now = s.now ∧ u.pending = s.pending) : Effect s u
  /-- BODY ends (R17). -/
  | sent {a : Attempt} (ha : s.tx = some a) (hp : a.phase = .body) : Effect s (s.endBody a).finish
  /-- A beacon is missed (R33). -/
  | missed {i : Fin 32} {n : Neighbour} (hn : s.table[i] = some n) : Effect s (s.missBeacon i n).settle
  /-- A beacon is due, again or for the first time (R51, R52, R54). -/
  | beaconDue (r : Millis) (hb : s.beacon ≠ .stopped ∧ ∀ r', s.beacon ≠ .inAttempt r') :
      Effect s (State.finish { s with beacon := .due r })
  /-- A beacon in attempt is replaced by the next (R54). -/
  | beaconReplaced {r : Millis} (r' : Millis) (hb : s.beacon = .inAttempt r) :
      Effect s { s with beacon := .inAttempt r' }
  | holdExpired {i : Fin 16} {e : Hold} (he : s.hold[i] = some e) (hstate : e.state = .holding) :
      Effect s (s.expireHold i e).finish
  | echoExpired {i : Fin 16} {e : Hold} (he : s.hold[i] = some e) (hstate : e.state = .awaitingEcho) :
      Effect s (s.expireEcho i e).settle
  | hushStands {d : Millis} (hh : s.hushHead = .backoff d) : Effect s (State.finish { s with hushHead := .standing })
  /-- A survey frame is due, of the burst that runs or of one that starts (R174, R175). -/
  | surveyDue (record : BurstRecord) (hb : s.burst ≠ .inAttempt ∧ s.burst ≠ .ending) :
      Effect s (State.finish { s with burst := .due, burstRec := record })
  | submitted {d g : Byte} {dest : Address} {p : List Byte} (hnone : s.submitRefusal d g dest p.length = none)
      (goal : Goal) (hops : Byte) : Effect s (s.acceptSubmit goal dest hops p).settle
  | slotRead (k : Fin 4) (n : Nat) :
      Effect s (State.settle { s with slots := setAt s.slots k (Slot.read s.unstated s.slots[k]).2.1, unstated := n })
  | released {d : Delivery} {rest : List Delivery} (hring : s.ring = d :: rest) :
      Effect s (State.settle (State.freeChain { s with ring := rest, cursor := 0 } d.chain))
  | statsCleared : Effect s { s with stats := Stats.zero }
  | tallyCleared : Effect s { s with tally := none }
  | silenced (hrun : s.station = .running) : Effect s s.silenced.settle
  | resumed (hsilent : s.station = .silent) : Effect s (State.finish { s with station := .running })
  | surveyStopped : Effect s s.cancelSurvey.endBurst.finish

/-- An outcome is a next state that `s` comes to by an effect. -/
def Does (s : State) (o : Host.Outcome State Fault Refusal) : Prop := ∃ u, o = .next u ∧ Effect s u

theorem Effect.does {s u : State} (h : Effect s u) : Does s (.next u) := ⟨u, rfl, h⟩

/-- The event does not occur (log 2). -/
theorem does_nothing (s : State) : Does s (.next s) := (Effect.aside (.refl s) ⟨rfl, rfl⟩).does

theorem does_aside {s u : State} (h : Background s u) (htime : u.now = s.now ∧ u.pending = s.pending) :
    Does s (.next u) := (Effect.aside h htime).does

/-- An event that occurs, or does not. -/
theorem does_ite {s : State} {p : Prop} [Decidable p] {o o' : Host.Outcome State Fault Refusal} (h : p → Does s o)
    (h' : ¬p → Does s o') : Does s (if p then o else o') := by
  split
  · next hp => exact h hp
  · next hp => exact h' hp

/-- A command of the lamp port is answered, or has its effect in the station states that take it (R163). -/
theorem does_port {s : State} {c : PortClass} {effect : State → State}
    (h : portRefusal c s.station = none → Effect s (effect s)) : Does s (.next (s.port c effect)) := by
  unfold State.port
  split
  · exact does_aside (.answer s _) ⟨rfl, rfl⟩
  · next hnone => exact (h hnone).does

/-- A received frame is nothing to a receiver that is not RECEIVING, is discarded, or is taken (R10, R12, R13). -/
theorem does_receive {s : State} {bad : Bool} {sender : Address} {handOff : State → State}
    (h : bad = false → sender ≠ s.own → Effect s (handOff s.takeGood).finish) :
    Does s (.next (s.receive bad sender handOff)) := by
  unfold State.receive
  split
  · split
    · exact (Effect.discarded (.inl rfl)).does
    · next hgood =>
      split
      · exact (Effect.discarded (.inr rfl)).does
      · next hother => exact (h (by simpa using hgood) hother).does
  · exact does_nothing s

/-! ### The load, the receiver and the transmitter -/

theorem does_resetRelease (s : State) (t : Time) : Does (s.advance t) (execResetRelease t s) :=
  does_ite (fun _ => Effect.does (.loading (.inl rfl) rfl ⟨rfl, rfl⟩)) fun _ => does_nothing _

theorem does_configStatusPoll (s : State) (t : Time) (status : Byte) :
    Does (s.advance t) (execConfigStatusPoll t status s) := by
  unfold execConfigStatusPoll
  dsimp only
  split
  · exact does_ite (fun _ => does_aside rfl ⟨rfl, rfl⟩) fun _ => does_nothing _
  all_goals exact does_nothing _

/-- The load ends without a record (R182). -/
theorem does_awaitConfig (s : State) : Does s (.next s.awaitConfig) := Effect.does (.loading (.inr rfl) rfl ⟨rfl, rfl⟩)

theorem does_configLoadTimeout (s : State) (t : Time) : Does (s.advance t) (execConfigLoadTimeout t s) := by
  unfold execConfigLoadTimeout
  dsimp only
  split
  · exact does_ite (fun _ => does_awaitConfig _) fun _ => does_nothing _
  all_goals exact does_nothing _

theorem does_configReadDone (s : State) (t : Time) (driven : List Byte) :
    Does (s.advance t) (execConfigReadDone t driven s) := by
  unfold execConfigReadDone
  refine does_ite (fun hreading => does_ite (fun _ => does_awaitConfig _) fun _ =>
    does_ite (fun _ => ?_) fun hnode => ?_)
    fun _ => does_nothing _
  · exact Effect.does (.loading (.inr rfl) rfl ⟨rfl, rfl⟩)
  · exact (Effect.accepted (by simpa using hnode) (.inl hreading)).does

theorem does_preambleDetected (s : State) (t : Time) (rate : Rate) (unit : Byte) :
    Does (s.advance t) (execPreambleDetected t rate unit s) := by
  unfold execPreambleDetected
  dsimp only
  split
  · exact (Effect.judgedBusy _).does
  all_goals exact does_nothing _

theorem does_startMark (s : State) (t : Time) : Does (s.advance t) (execStartMark t s) := by
  unfold execStartMark
  dsimp only
  split
  · exact does_aside rfl ⟨rfl, rfl⟩
  all_goals exact does_nothing _

theorem does_preambleEndNoFrame (s : State) (t : Time) (unit : Byte) :
    Does (s.advance t) (execPreambleEndNoFrame t unit s) := by
  unfold execPreambleEndNoFrame
  dsimp only
  split
  · exact does_ite (fun _ => does_aside rfl ⟨rfl, rfl⟩) fun _ => does_nothing _
  all_goals exact does_nothing _

/-- A level that rises judges the receiver's state as it is (R16). -/
theorem does_busyLevelRise (s : State) (t : Time) (level : Int) : Does (s.advance t) (execBusyLevelRise t level s) :=
  does_ite (fun _ => (Effect.judgedBusy s.rx).does) fun _ => does_nothing _

/-- A phase that is over does what its end does; one that is not, nothing (R16, R17). -/
theorem does_phaseOver {s : State} {p : Phase} {ends : Attempt → State}
    (h : ∀ a, s.tx = some a → a.phase = p → Effect s (ends a)) :
    Does s (match s.phaseOver p with | some a => .next (ends a) | none => .next s) := by
  cases hover : s.phaseOver p with
  | none => exact does_nothing _
  | some a =>
    obtain ⟨htx, hp, -⟩ := State.phaseOver_eq_some.1 hover
    exact (h a htx hp).does

theorem does_ccaClear (s : State) (t : Time) : Does (s.advance t) (execCcaClear t s) :=
  does_phaseOver fun _ ha hp => .clear ha hp

theorem does_settlingEnd (s : State) (t : Time) : Does (s.advance t) (execSettlingEnd t s) :=
  does_phaseOver fun _ ha hp => .phase ha rfl rfl (by simp [hp]) rfl ⟨rfl, rfl⟩

theorem does_preambleSent (s : State) (t : Time) : Does (s.advance t) (execPreambleSent t s) :=
  does_phaseOver fun _ ha hp => .phase ha rfl rfl (by simp [hp]) rfl ⟨rfl, rfl⟩

theorem does_bodyEnd (s : State) (t : Time) : Does (s.advance t) (execBodyEnd t s) :=
  does_phaseOver fun _ ha hp => .sent ha hp

/-! ### The timers -/

theorem does_neighbourDueExpiry (s : State) (t : Time) (slot : Fin 32) :
    Does (s.advance t) (execNeighbourDueExpiry t slot s) := by
  unfold execNeighbourDueExpiry
  dsimp only
  split
  · next n hn => exact does_ite (fun _ => (Effect.missed hn).does) fun _ => does_nothing _
  · exact does_nothing _

theorem does_holdDeadlineExpiry (s : State) (t : Time) (i : Fin 16) :
    Does (s.advance t) (execHoldDeadlineExpiry t i s) := by
  unfold execHoldDeadlineExpiry
  dsimp only
  split
  · next e he => exact does_ite (fun h => (Effect.holdExpired he h.1).does) fun _ => does_nothing _
  · exact does_nothing _

theorem does_echoDeadlineExpiry (s : State) (t : Time) (i : Fin 16) :
    Does (s.advance t) (execEchoDeadlineExpiry t i s) := by
  unfold execEchoDeadlineExpiry
  dsimp only
  split
  · next e he => exact does_ite (fun h => (Effect.echoExpired he h.1).does) fun _ => does_nothing _
  · exact does_nothing _

/-- A beacon comes due where it is neither stopped nor in attempt, if its time has come (R51, R52, R54). -/
theorem does_beaconDue {s : State} {b : Beacon} {p : Prop} [Decidable p] (r : Millis) (hb : s.beacon = b)
    (hne : b ≠ .stopped ∧ ∀ r', b ≠ .inAttempt r') :
    Does s (if p then .next (State.finish { s with beacon := .due r }) else .next s) :=
  does_ite (fun _ => (Effect.beaconDue r (hb ▸ hne)).does) fun _ => does_nothing _

theorem does_beaconDueExpiry (s : State) (t : Time) : Does (s.advance t) (execBeaconDueExpiry t s) := by
  unfold execBeaconDueExpiry
  dsimp only
  split
  · next d hb => exact does_beaconDue _ hb (by simp)
  all_goals exact does_nothing _

theorem does_beaconBackoffExpiry (s : State) (t : Time) : Does (s.advance t) (execBeaconBackoffExpiry t s) := by
  unfold execBeaconBackoffExpiry
  dsimp only
  split
  · next d r hb => exact does_beaconDue _ hb (by simp)
  all_goals exact does_nothing _

theorem does_beaconReplacementExpiry (s : State) (t : Time) :
    Does (s.advance t) (execBeaconReplacementExpiry t s) := by
  unfold execBeaconReplacementExpiry
  dsimp only
  split
  · next r hb => exact does_beaconDue _ hb (by simp)
  · next d r hb => exact does_beaconDue _ hb (by simp)
  · next r hb => exact does_ite (fun _ => (Effect.beaconReplaced _ hb).does) fun _ => does_nothing _
  all_goals exact does_nothing _

theorem does_hushBackoffExpiry (s : State) (t : Time) : Does (s.advance t) (execHushBackoffExpiry t s) := by
  unfold execHushBackoffExpiry
  dsimp only
  split
  · next d hh => exact does_ite (fun _ => (Effect.hushStands hh).does) fun _ => does_nothing _
  all_goals exact does_nothing _

theorem does_surveyIntervalExpiry (s : State) (t : Time) : Does (s.advance t) (execSurveyIntervalExpiry t s) := by
  unfold execSurveyIntervalExpiry
  dsimp only
  split
  · next d hb => exact does_ite (fun _ => (Effect.surveyDue s.burstRec (by rw [hb]; simp)).does) fun _ => does_nothing _
  all_goals exact does_nothing _

theorem does_surveyBackoffExpiry (s : State) (t : Time) : Does (s.advance t) (execSurveyBackoffExpiry t s) := by
  unfold execSurveyBackoffExpiry
  dsimp only
  split
  · next d hb => exact does_ite (fun _ => (Effect.surveyDue s.burstRec (by rw [hb]; simp)).does) fun _ => does_nothing _
  all_goals exact does_nothing _

theorem does_stretchExpiry (s : State) (t : Time) : Does (s.advance t) (execStretchExpiry t s) := by
  unfold execStretchExpiry
  dsimp only
  split
  · exact does_ite (fun _ => does_aside rfl ⟨rfl, rfl⟩) fun _ => does_nothing _
  · exact does_nothing _

theorem does_indicatorAlternation (s : State) (t : Time) : Does (s.advance t) (execIndicatorAlternation t s) := by
  unfold execIndicatorAlternation
  dsimp only
  split
  · exact does_ite (fun _ => does_aside rfl ⟨rfl, rfl⟩) fun _ => does_nothing _
  · exact does_nothing _

/-! ### The lamp port -/

/-- CONFIGURE, SILENCE and RESUME are taken in one station state each (R163). -/
theorem port_takes (st : Station) : (portRefusal .configure st = none → st = .awaitingConfig)
    ∧ (portRefusal .silence st = none → st = .running) ∧ (portRefusal .resume st = none → st = .silent) := by
  cases st <;> decide

theorem does_configure (s : State) (t : Time) (bytes : List Byte) :
    Does (s.advance t) (execConfigure t bytes s) := by
  unfold execConfigure
  refine does_ite (fun _ => does_nothing _) fun _ => does_port fun hnone => ?_
  obtain ⟨hawaits, -, -⟩ := port_takes (s.advance t).station
  have hawait : (s.advance t).station = .awaitingConfig := hawaits hnone
  split
  · exact .aside (.answer _ _) ⟨rfl, rfl⟩
  · next hnode => exact .answered (.accepted (by simpa using hnode) (.inr hawait)) _

theorem does_restart (s : State) (t : Time) : Does (s.advance t) (execRestart t s) := by
  refine does_port fun _ => ?_
  split
  · next r hr => exact .answered (.restarted hr) _
  · exact .answered .cleared _

theorem does_submit (s : State) (t : Time) (discipline target : Byte) (dest : Address) (hops : Byte)
    (payload : List Byte) : Does (s.advance t) (execSubmit t discipline target dest hops payload s) := by
  refine does_port fun _ => ?_
  split
  · exact .aside (.answer _ _) ⟨rfl, rfl⟩
  · next hnone => exact .submitted hnone _ _

theorem does_originStatus (s : State) (t : Time) (slot : Byte) :
    Does (s.advance t) (execOriginStatus t slot s) := by
  refine does_port fun _ => ?_
  split
  · next hk => exact .answered (.slotRead ⟨slot.toNat, hk⟩ _) _
  · exact .aside (.answer _ _) ⟨rfl, rfl⟩

theorem does_fetch (s : State) (t : Time) (n : Byte) : Does (s.advance t) (execFetch t n s) := by
  refine does_port fun _ => ?_
  split
  · exact .aside (.answer _ _) ⟨rfl, rfl⟩
  · exact .aside rfl ⟨rfl, rfl⟩

theorem does_release (s : State) (t : Time) : Does (s.advance t) (execRelease t s) := by
  refine does_port fun _ => ?_
  split
  · exact .aside (.answer _ _) ⟨rfl, rfl⟩
  · next d rest hring => exact .answered (.released hring) _

theorem does_transactionEndedEarly (s : State) (t : Time) (n : Nat) :
    Does (s.advance t) (execTransactionEndedEarly t n s) := by
  unfold execTransactionEndedEarly
  dsimp only
  split
  · exact does_ite (fun _ => does_aside rfl ⟨rfl, rfl⟩) fun _ => does_nothing _
  all_goals exact does_nothing _

/-- Statistics are reported, and cleared with the flag set (R179). -/
theorem does_readStats (s : State) (t : Time) (clear : Byte) : Does (s.advance t) (execReadStats t clear s) := by
  refine does_port fun _ => .answered ?_ _
  split
  · exact .aside rfl ⟨rfl, rfl⟩
  · exact .statsCleared

/-- The tally is reported, and emptied with the flag set (R178). -/
theorem does_readSurvey (s : State) (t : Time) (clear : Byte) : Does (s.advance t) (execReadSurvey t clear s) := by
  refine does_port fun _ => .answered ?_ _
  split
  · exact .aside rfl ⟨rfl, rfl⟩
  · exact .tallyCleared

theorem does_silence (s : State) (t : Time) : Does (s.advance t) (execSilence t s) := by
  obtain ⟨-, hrunning, -⟩ := port_takes (s.advance t).station
  exact does_port fun hnone => .answered (.silenced (hrunning hnone)) _

theorem does_resume (s : State) (t : Time) : Does (s.advance t) (execResume t s) := by
  obtain ⟨-, -, hsilent⟩ := port_takes (s.advance t).station
  exact does_port fun hnone => .answered (.resumed (hsilent hnone)) _

theorem does_survey (s : State) (t : Time) (count interval : BitVec 16) (rate fill : Byte) :
    Does (s.advance t) (execSurvey t count interval rate fill s) := by
  refine does_port fun _ => ?_
  split
  · next hb => exact .answered (.surveyDue _ (by rw [hb]; simp)) _
  · exact .aside (.answer _ _) ⟨rfl, rfl⟩

/-- Every command, in every state, ends in a next state, which it comes to by an effect (log 22). -/
theorem exec_does (c : Instr) (s : State) : Does (s.advance c.time) (exec c s) := by
  cases c with
  | powerOn t => exact Effect.reset.does
  | resetLine t => exact Effect.reset.does
  | resetRelease t => exact does_resetRelease s t
  | configStatusPoll t status => exact does_configStatusPoll s t status
  | configLoadTimeout t => exact does_configLoadTimeout s t
  | configReadDone t driven => exact does_configReadDone s t driven
  | preambleDetected t rate unit => exact does_preambleDetected s t rate unit
  | startMark t => exact does_startMark s t
  | preambleEndNoFrame t unit => exact does_preambleEndNoFrame s t unit
  | carryHeaderComplete t header =>
    exact does_ite (fun _ => (Effect.discarded (.inl rfl)).does) fun _ => does_nothing _
  | frameLost loss => exact does_ite (fun _ => (Effect.discarded (.inl rfl)).does) fun _ => does_nothing _
  | beaconReceived t header check levels => exact does_receive fun hgood hother => .beaconTaken hgood hother
  | carryReceived t header payload check levels => exact does_receive fun hgood _ => .carryTaken hgood
  | hushReceived t header check levels => exact does_receive fun _ _ => .hushTaken header levels
  | surveyReceived t header fill check levels => exact does_receive fun _ _ => .surveyTaken header levels
  | busyLevelRise t level => exact does_busyLevelRise s t level
  | ccaClear t => exact does_ccaClear s t
  | settlingEnd t => exact does_settlingEnd s t
  | preambleSent t => exact does_preambleSent s t
  | bodyEnd t => exact does_bodyEnd s t
  | neighbourDueExpiry t slot => exact does_neighbourDueExpiry s t slot
  | holdDeadlineExpiry t i => exact does_holdDeadlineExpiry s t i
  | echoDeadlineExpiry t i => exact does_echoDeadlineExpiry s t i
  | beaconDueExpiry t => exact does_beaconDueExpiry s t
  | beaconBackoffExpiry t => exact does_beaconBackoffExpiry s t
  | beaconReplacementExpiry t => exact does_beaconReplacementExpiry s t
  | hushBackoffExpiry t => exact does_hushBackoffExpiry s t
  | surveyIntervalExpiry t => exact does_surveyIntervalExpiry s t
  | surveyBackoffExpiry t => exact does_surveyBackoffExpiry s t
  | stretchExpiry t => exact does_stretchExpiry s t
  | indicatorAlternation t => exact does_indicatorAlternation s t
  | lselRiseAbort t => exact does_nothing _
  | status t => exact does_port fun _ => .aside (.answer _ _) ⟨rfl, rfl⟩
  | configure t bytes => exact does_configure s t bytes
  | submit t discipline target dest hops payload => exact does_submit s t discipline target dest hops payload
  | originStatus t slot => exact does_originStatus s t slot
  | fetch t n => exact does_fetch s t n
  | release t => exact does_release s t
  | readEvents t => exact does_port fun _ => .aside rfl ⟨rfl, rfl⟩
  | clearEvents t selection => exact does_port fun _ => .aside rfl ⟨rfl, rfl⟩
  | setEvents t masks modes latches => exact does_port fun _ => .aside rfl ⟨rfl, rfl⟩
  | readTable t => exact does_port fun _ => .aside rfl ⟨rfl, rfl⟩
  | readStats t clear => exact does_readStats s t clear
  | silence t => exact does_silence s t
  | resume t => exact does_resume s t
  | survey t count interval rate fill => exact does_survey s t count interval rate fill
  | stopSurvey t => exact does_port fun _ => .answered .surveyStopped _
  | readSurvey t clear => exact does_readSurvey s t clear
  | restart t => exact does_restart s t
  | badCommand t code => exact does_ite (fun _ => does_nothing _) fun _ => does_aside (.answer _ _) ⟨rfl, rfl⟩
  | transactionEndedEarly t n => exact does_transactionEndedEarly s t n

/-- A law that speaks of nothing in the background is kept by every step if every effect keeps it. -/
theorem kept_of_effects {P : State → Prop} (hback : ∀ s u, Background s u → P s → P u)
    (heffect : ∀ s u, P s → Effect s u → P u) : Kept P := by
  intro s u hs h
  unfold step at h
  split at h
  · cases h
    exact hs
  · next c rest _ =>
    obtain ⟨v, hv, he⟩ := exec_does c { s with pending := rest }
    rw [hv] at h
    cases h
    exact heffect _ _ (hback s _ (.front s rest c.time) hs) he

/-! ### The queue and the time (00_scope.md, Time) -/

/-- An accepted SUBMIT reaches neither (R156). -/
theorem State.acceptSubmit_time (s : State) (goal : Goal) (dest : Address) (hops : Byte) (payload : List Byte) :
    (s.acceptSubmit goal dest hops payload).now = s.now
      ∧ (s.acceptSubmit goal dest hops payload).pending = s.pending := by
  unfold State.acceptSubmit State.seeded
  split
  · next s1 chain k halloc hslot =>
    rw [State.allocate_frame halloc]
    cases s.serial <;> simp
  · exact ⟨rfl, rfl⟩
  · exact ⟨rfl, rfl⟩

/-- No effect reaches the queue, and none moves the time on from that of its command (log 1). -/
theorem Effect.keeps_time {s u : State} (h : Effect s u) : u.now = s.now ∧ u.pending = s.pending := by
  induction h with
  | aside h htime | loading _ h htime | phase _ _ _ _ h htime => exact htime
  | answered _ _ ih => exact ih
  | accepted _ _ => unfold State.acceptBytes; dsimp only; split <;> exact ⟨rfl, rfl⟩
  | judgedBusy rx => simp [State.finish]
  | beaconTaken _ _ | carryTaken _ | hushTaken _ _ => simp [State.finish, State.takeGood]
  | surveyTaken _ _ => simp [State.finish, State.takeGood, State.takeSurvey]
  | clear _ _ => simp [State.clearChannel]
  | sent _ _ => simp [State.finish, State.endBody]
  | silenced _ => simp [State.silenced]
  | submitted _ goal hops => exact s.acceptSubmit_time goal _ hops _
  | reset | cleared | restarted _ | discarded _ | beaconReplaced _ _ | slotRead _ _ | released _ | statsCleared
  | tallyCleared => exact ⟨rfl, rfl⟩
  | _ => simp [State.finish]

/-- Settles O2: a command's effect, found row by row, leaves the queue and the time of the command. -/
theorem everyCommandKeepsQueueAndMovesTime : Obligations.EveryCommandKeepsQueueAndMovesTime := by
  intro c s
  obtain ⟨u, hu, he⟩ := exec_does c s
  obtain ⟨hnow, hpending⟩ := he.keeps_time
  exact ⟨u, hu, hpending, hnow⟩

/-- Settles O1: by the two forms of the queue. -/
theorem stepTakesTheFrontCommand : Obligations.StepTakesTheFrontCommand := by
  constructor
  · intro c rest s h
    rw [step, h]
  · intro s h
    rw [step, h]

end Sys2Proof.Machine
end

section
namespace Sys2Proof.Machine

/-! ### Every step keeps the start-up law (R180 to R186) -/

/-- The start-up law of a station that is RUNNING or SILENT (R184). -/
theorem startLaw_of_duty {u : State} (hd : u.station = .running ∨ u.station = .silent)
    (h : (∃ r, u.record = some r ∧ r.inRange) ∧ u.loader = .idle ∧ u.alternation = none) : StartLaw u := by
  unfold StartLaw
  rcases hd with hd | hd <;> rw [hd] <;> exact h

/-- A station on duty stays so with record, loader and alternation as they were. -/
theorem StartLaw.kept {s u : State} (hs : StartLaw s) (hd : s.station = .running ∨ s.station = .silent)
    (hu : u.station = .running ∨ u.station = .silent)
    (h : u.record = s.record ∧ u.loader = s.loader ∧ u.alternation = s.alternation) : StartLaw u := by
  obtain ⟨hrecord, hloader, halternation⟩ := h
  exact startLaw_of_duty hu (by rw [hrecord, hloader, halternation]; exact hs.duty hd)

/-- What leaves station and radio as they were keeps the law of a station on duty. -/
theorem StartLaw.steady {s u : State} (hs : StartLaw s) (hd : s.station = .running ∨ s.station = .silent)
    (h : Steady s u) : StartLaw u := hs.kept hd (h.station ▸ hd) ⟨h.record, h.loader, h.alternation⟩

section Duty

variable {s u : State}

/-- The phases of an attempt leave the station on duty (R16, R17). -/
theorem transmit_keeps_start {c : Instr} {t : Time} (hs : StartLaw s)
    (hd : s.station = .running ∨ s.station = .silent)
    (hc : c = .ccaClear t ∨ c = .settlingEnd t ∨ c = .preambleSent t ∨ c = .bodyEnd t) (h : exec c s = .next u) :
    StartLaw u := by
  rcases hc with rfl | rfl | rfl | rfl
  · simp only [exec, execCcaClear] at h
    split at h <;> cases h
    · exact hs.kept hd (by simpa [State.clearChannel] using hd) (by simp [State.clearChannel])
    · exact hs.steady hd (.advance s t)
  · simp only [exec, execSettlingEnd] at h
    split at h <;> cases h <;> exact hs.kept hd hd ⟨rfl, rfl, rfl⟩
  · simp only [exec, execPreambleSent] at h
    split at h <;> cases h <;> exact hs.kept hd hd ⟨rfl, rfl, rfl⟩
  · simp only [exec, execBodyEnd] at h
    split at h <;> cases h
    · exact hs.kept hd (by simpa [State.endBody, State.finish] using hd) (by simp [State.endBody, State.finish])
    · exact hs.steady hd (.advance s t)

/-- CONFIGURE is refused on duty (R163, R185). -/
theorem configure_keeps_start {t : Time} {bytes : List Byte} (hs : StartLaw s)
    (hd : s.station = .running ∨ s.station = .silent) (h : exec (.configure t bytes) s = .next u) : StartLaw u := by
  have hrefused : portRefusal .configure (s.advance t).station = some .badState := by
    rcases hd with hd | hd <;> rw [State.advance_station, hd] <;> rfl
  simp only [exec, execConfigure, State.port, hrefused] at h
  split at h <;> cases h <;> exact hs.kept hd hd ⟨rfl, rfl, rfl⟩

/-- SILENCE and RESUME move between RUNNING and SILENT, and leave record, loader and alternation (R167). -/
theorem silence_keeps_start {c : Instr} {t : Time} (hs : StartLaw s)
    (hd : s.station = .running ∨ s.station = .silent) (hc : c = .silence t ∨ c = .resume t)
    (h : exec c s = .next u) : StartLaw u := by
  have hu : (u.station = .running ∨ u.station = .silent)
      ∧ u.record = s.record ∧ u.loader = s.loader ∧ u.alternation = s.alternation := by
    rcases hc with rfl | rfl
    · simp only [exec, execSilence, State.port] at h
      split at h <;> obtain rfl := Host.Outcome.next.inj h
      · exact ⟨hd, rfl, rfl, rfl⟩
      · simp [State.silenced, State.ok]
    · simp only [exec, execResume, State.port] at h
      split at h <;> obtain rfl := Host.Outcome.next.inj h
      · exact ⟨hd, rfl, rfl, rfl⟩
      · simp [State.finish, State.ok]
  obtain ⟨hstation, hsame⟩ := hu
  exact hs.kept hd hstation hsame

/-- RESTART accepts its record again, from reset values (R186). -/
theorem restart_keeps_start {t : Time} (hs : StartLaw s) (hd : s.station = .running ∨ s.station = .silent)
    (h : exec (.restart t) s = .next u) : StartLaw u := by
  have htaken : portRefusal .restart (s.advance t).station = none := by
    rcases hd with hd | hd <;> rw [State.advance_station, hd] <;> rfl
  obtain ⟨⟨r, hr, hrange⟩, -, -⟩ := hs.duty hd
  simp only [exec, execRestart, State.port, htaken, State.advance_record, hr] at h
  obtain rfl := Host.Outcome.next.inj h
  exact startLaw_of_duty (.inl rfl) ⟨⟨r, rfl, hrange⟩, rfl, rfl⟩

/-- Every command keeps the start-up law of a station on duty. -/
theorem exec_duty_keeps_start {c : Instr} (hs : StartLaw s) (hd : s.station = .running ∨ s.station = .silent)
    (h : exec c s = .next u) : StartLaw u := by
  have still (t : Time) : StartLaw (s.advance t) := hs.steady hd (.advance s t)
  obtain ⟨-, hloader, halternation⟩ := hs.duty hd
  cases hc : movesStation c with
  | false => exact hs.steady hd (exec_steady c s hc u h)
  | true =>
    cases c with
    | powerOn t => cases h; exact (radioLaw_resetBlocks _).1
    | resetLine t => cases h; exact (radioLaw_resetBlocks _).1
    | resetRelease t => simp [exec, execResetRelease, hloader] at h; cases h; exact still t
    | configStatusPoll t status => simp [exec, execConfigStatusPoll, hloader] at h; cases h; exact still t
    | configLoadTimeout t => simp [exec, execConfigLoadTimeout, hloader] at h; cases h; exact still t
    | configReadDone t driven => simp [exec, execConfigReadDone, hloader] at h; cases h; exact still t
    | ccaClear t => exact transmit_keeps_start hs hd (.inl rfl) h
    | settlingEnd t => exact transmit_keeps_start hs hd (.inr (.inl rfl)) h
    | preambleSent t => exact transmit_keeps_start hs hd (.inr (.inr (.inl rfl))) h
    | bodyEnd t => exact transmit_keeps_start hs hd (.inr (.inr (.inr rfl))) h
    | indicatorAlternation t => simp [exec, execIndicatorAlternation, halternation] at h; cases h; exact still t
    | configure t bytes => exact configure_keeps_start hs hd h
    | silence t => exact silence_keeps_start hs hd (.inl rfl) h
    | resume t => exact silence_keeps_start hs hd (.inr rfl) h
    | restart t => exact restart_keeps_start hs hd h
    | _ => cases hc

end Duty

theorem exec_keeps_startLaw {c : Instr} {s u : State} (hs : StartLaw s) (h : exec c s = .next u) : StartLaw u := by
  cases hstation : s.station with
  | loading => exact (exec_before_keeps_radio hs (.inl hstation) h).1
  | awaitingConfig => exact (exec_before_keeps_radio hs (.inr hstation) h).1
  | running => exact exec_duty_keeps_start hs (.inl hstation) h
  | silent => exact exec_duty_keeps_start hs (.inr hstation) h

/-- Settles O51: before RUNNING a command leaves the reset values or accepts a record, and on duty it leaves record,
loader and alternation. -/
theorem startLawIsKept : Obligations.StartLawIsKept := by
  intro s u hs h
  unfold step at h
  split at h
  · cases h
    exact hs
  · next c rest _ => exact exec_keeps_startLaw (s := { s with pending := rest }) hs h

end Sys2Proof.Machine
end

section
namespace Sys2Proof.Machine

/-! ### What an effect is made of

The stores of the blocks: message store and chains, table and ranks, slots, counters, rate control, power and jitter. An
effect reaches them by moves, each of one kind; what a law of a block asks for is asked of each move. -/

/-- From `s` to `u` the blocks' stores are as they were. -/
def SameStores (s u : State) : Prop :=
  u.record = s.record ∧ u.jitter = s.jitter ∧ u.table = s.table ∧ u.ranks = s.ranks ∧ u.hold = s.hold
    ∧ u.hushQueue = s.hushQueue ∧ u.mem = s.mem ∧ u.free = s.free ∧ u.power = s.power ∧ u.rate = s.rate
    ∧ u.echoed = s.echoed ∧ u.unechoed = s.unechoed ∧ u.ring = s.ring ∧ u.slots = s.slots ∧ u.tally = s.tally
    ∧ u.stats = s.stats

theorem SameStores.refl (s : State) : SameStores s s :=
  ⟨rfl, rfl, rfl, rfl, rfl, rfl, rfl, rfl, rfl, rfl, rfl, rfl, rfl, rfl, rfl, rfl⟩

theorem Background.sameStores {s u : State} (h : Background s u) : SameStores s u := by
  rw [h]
  exact .refl s

/-- The counters change by one count (R179). -/
def CountsOnce (f : Stats → Stats) : Prop :=
  f = Stats.addGood ∨ f = Stats.addBad ∨ f = Stats.addRelayed ∨ f = Stats.addSuppressed ∨ f = Stats.addHushed
    ∨ f = Stats.addAbandoned ∨ f = Stats.addNoBuffer ∨ f = Stats.addOther ∨ f = Stats.addOverflow
    ∨ f = Stats.addRefused ∨ f = Stats.addHushLost ∨ f = Stats.addOwn

/-- The ranges of a neighbour entry's fields (R21 to R33). -/
def Neighbour.InRange (n : Neighbour) : Prop :=
  (1 ≤ n.history.length ∧ n.history.length ≤ 16) ∧ n.heardStreak ≤ 7 ∧ n.missStreak ≤ 15
    ∧ n.missesNoted ≤ 15 ∧ n.marginAvg ≤ 63 ∧ (2 ≤ n.period ∧ n.period ≤ 60)

/-- An entry comes to a slot of the table: one for an address of its own, or the slot's entry with fields in range
(R26, R30, R33). -/
def State.Seats (s : State) (i : Fin 32) (n : Neighbour) : Prop :=
  (n.InRange ∧ n.address ≠ s.own ∧ noStation n.address = false
      ∧ ∀ (j : Fin 32) (m : Neighbour), i ≠ j → s.table[j] = some m → m.address ≠ n.address)
    ∨ ∃ m, s.table[i] = some m ∧ n.address = m.address ∧ (m.InRange → n.InRange)

/-- The state with a payload in a chain from the head of the free list, and the entry `e` for it at hold index `i`
(R82, R156). -/
def State.stored (s : State) (i : Fin 16) (e : Hold) (p : List Byte) : State :=
  { s with
    free := s.free.drop (blocksFor e.length)
    mem := fillChain s.mem (s.free.take (blocksFor e.length)) p
    hold := setAt s.hold i (some e) }

/-- The entry `e` finds room at hold index `i` and takes its chain from the head of the free list (R81, R120). -/
structure State.Stores (s : State) (i : Fin 16) (e : Hold) : Prop where
  place : s.hold[i] = none
  room : blocksFor e.length ≤ s.free.length
  short : e.length ≤ 112
  chain : e.chain = s.free.take (blocksFor e.length)

/-- One move of the blocks' stores. -/
inductive Move (s : State) : State → Prop where
  /-- None of the stores. -/
  | aside {u : State} (h : SameStores s u) : Move s u
  /-- One draw (R20). -/
  | drawn : Move s s.drawn
  | counted {f : Stats → Stats} (hf : CountsOnce f) : Move s (s.count f)
  | statsCleared : Move s { s with stats := Stats.zero }
  | tallied (h : SurveyHeader) (levels : List Int) :
      Move s { s with tally := some (Machine.tallied s.tally h (marginOf levels)) }
  | tallyCleared : Move s { s with tally := none }
  /-- A slot of the table is written and the ranks are formed again (R37, R45). -/
  | tableWritten {u : State} {i : Fin 32} {o : Option Neighbour} {told : Prop} (ho : ∀ n, o = some n → s.Seats i n)
      (h : SlotRefreshed s u i o told) : Move s u
  | echoed : Move s s.echoedOutcome
  | unechoed : Move s s.unechoedOutcome
  /-- The density step at a beacon sent (R132). -/
  | density : Move s s.densityStep
  /-- A hold entry changed in what is none of its message's: state, deadline, attempts, defers, transmit rank. -/
  | restated {i : Fin 16} {e f : Hold} (he : s.hold[i] = some e) (hf : f = { e with
      state := f.state, deadline := f.deadline, attempts := f.attempts, defers := f.defers
      transmitRank := f.transmitRank }) : Move s (s.setHold i (some f))
  /-- A hold entry goes, its chain to the free list, its slot complete (R75). -/
  | dropped {i : Fin 16} {e : Hold} {k : Ending} (he : s.hold[i] = some e) (hk : k = .staleRank → e.senderRank ≠ none) :
      Move s (State.completeSlot { s with hold := setAt s.hold i none, free := s.free ++ e.chain } e k)
  /-- A first copy is held (R82). -/
  | held {i : Fin 16} {e : Hold} (p : List Byte) (h : s.Stores i e) (hslot : e.slot = none) : Move s (s.stored i e p)
  /-- An own message is held, its slot PENDING (R156). -/
  | submitted {i : Fin 16} {e : Hold} {k : Fin 4} (p : List Byte) (h : s.Stores i e) (hslot : e.slot = some k)
      (hrank : e.senderRank = none) (hk : s.slots[k] = .free) :
      Move s { s.stored i e p with slots := setAt s.slots k (.pending e.ident.serial) }
  /-- A slot is read: one that is COMPLETE becomes FREE (R158). -/
  | slotRead (k : Fin 4) : Move s { s with slots := setAt s.slots k (Slot.read s.unstated s.slots[k]).2.1 }
  /-- The ring takes a message (R147). -/
  | delivered {d : Delivery} (p : List Byte) (hring : s.ring.length < 8) (hroom : blocksFor d.length ≤ s.free.length)
      (hshort : d.length ≤ 112) (hchain : d.chain = s.free.take (blocksFor d.length)) :
      Move s { s with
        free := s.free.drop (blocksFor d.length)
        mem := fillChain s.mem (s.free.take (blocksFor d.length)) p
        ring := s.ring ++ [d] }
  /-- The ring's head is released (R148). -/
  | released {d : Delivery} {rest : List Delivery} (hring : s.ring = d :: rest) :
      Move s { s with ring := rest, free := s.free ++ d.chain }
  /-- The HUSH queue takes an identity, or its head leaves it (R111, R112). -/
  | hushQueued {q : List Ident} (hq : s.hushQueue.length ≤ 4 → q.length ≤ 4) : Move s { s with hushQueue := q }

/-- Some moves, one after another. -/
abbrev Moves : State → State → Prop := Relation.ReflTransGen Move

theorem Move.moves {s u : State} (h : Move s u) : Moves s u := .single h

theorem SameStores.moves {s u : State} (h : SameStores s u) : Moves s u := (Move.aside h).moves

theorem Background.moves {s u : State} (h : Background s u) : Moves s u := h.sameStores.moves

/-- Moves that leave the stores as `u` has them. -/
theorem moves_to {s v u : State} (h : Moves s v) (hu : SameStores v u) : Moves s u := h.tail (.aside hu)

/-! ### The shared operations -/

/-- What an echoed outcome leaves of rate control (R136, R138). -/
theorem State.echoedOutcome_streaks (s : State) : s.echoedOutcome.unechoed = 0
    ∧ s.echoedOutcome.echoed = (if s.echoed + 1 < s.cfg.upshiftAfter then s.echoed + 1 else 0)
    ∧ s.echoedOutcome.rate = (if s.cfg.upshiftAfter ≤ s.echoed + 1 ∧ rateCode s.rate < rateCode s.cfg.maxRate then
        rateUp s.rate else s.rate) := by
  unfold State.echoedOutcome
  split
  · next h => simp [h]
  · next h => split <;> simp_all

/-- What an unechoed outcome leaves of rate control (R137, R138). -/
theorem State.unechoedOutcome_streaks (s : State) : s.unechoedOutcome.echoed = 0
    ∧ s.unechoedOutcome.unechoed = (if s.unechoed + 1 < s.cfg.downshiftAfter then s.unechoed + 1 else 0)
    ∧ s.unechoedOutcome.rate = (if s.cfg.downshiftAfter ≤ s.unechoed + 1 then rateDown s.rate else s.rate) := by
  unfold State.unechoedOutcome
  split
  · next h => simp [h]
  · next h => split <;> simp_all [rateDown]

theorem Ending.counted_once (k : Ending) : CountsOnce k.counted := by
  cases k <;> simp [CountsOnce, Ending.counted]

/-- Completing a slot depends on the slots alone (R157). -/
theorem State.completeSlot_slots (s : State) (e : Hold) (k : Ending) : (s.completeSlot e k).slots =
    match e.slot, k.slotOutcome with
    | some q, some o => setAt s.slots q (.complete e.ident.serial o e.attempts)
    | some _, none => s.slots
    | none, _ => s.slots := by
  unfold State.completeSlot
  repeat' split
  all_goals simp_all

theorem moves_removeHold (s : State) (i : Fin 16) {k : Ending}
    (hk : ∀ e, s.hold[i] = some e → k = .staleRank → e.senderRank ≠ none) : Moves s (s.removeHold i k) := by
  cases he : s.hold[i] with
  | none =>
    rw [State.removeHold_none he]
  | some e =>
    have hdropped : Moves s _ := (Move.dropped he (hk e he)).moves.tail (.counted k.counted_once)
    by_cases hecho : k = .echoed
    · refine moves_to (hdropped.tail .echoed) ?_
      simp only [State.removeHold, he, if_pos hecho, SameStores, State.echoedOutcome_streaks, State.setHold_echoed,
        State.setHold_unechoed, State.setHold_rate, State.setHold_slots, State.echoedOutcome_frame,
        State.count_slots, State.completeSlot_slots]
      simp [State.cfg]
    · refine moves_to hdropped ?_
      simp only [State.removeHold, he, if_neg hecho, SameStores, State.setHold_slots, State.count_slots,
        State.completeSlot_slots]
      simp

/-- Every ending but STALE_RANK reaches the slot of an own message (R157). -/
theorem moves_removeHold_of_ne (s : State) (i : Fin 16) {k : Ending} (hk : k ≠ .staleRank) :
    Moves s (s.removeHold i k) := moves_removeHold s i fun _ _ h => absurd h hk

theorem moves_settle (s : State) : Moves s s.settle := (Background.settle s).moves

theorem moves_granted (s : State) (o : Owner) : Moves s (s.granted o) := by
  cases o with
  | hold i =>
    cases he : s.hold[i] with
    | none => exact SameStores.moves (by simp [SameStores, State.granted, State.markGranted, he])
    | some e =>
      refine moves_to (Move.restated he (f := { e with state := .assessing }) rfl).moves ?_
      simp [SameStores, State.granted, State.markGranted, he]
  | beacon =>
    exact SameStores.moves (by unfold State.granted State.markGranted; dsimp only; split <;> simp [SameStores])
  | hush => exact SameStores.moves (.refl s)
  | survey => exact SameStores.moves (.refl s)

theorem moves_deferOwner (s : State) (o : Owner) : Moves s (s.deferOwner o) := by
  cases o with
  | hold i =>
    unfold State.deferOwner
    dsimp only
    split
    · next e he =>
      split
      · exact moves_to (Move.drawn.moves.tail (.restated (s := s.drawn) he rfl)) (.refl _)
      · exact (SameStores.moves (u := { s with tx := none }) (.refl s)).trans (moves_removeHold_of_ne _ i (by simp))
    · exact SameStores.moves (.refl s)
  | beacon =>
    unfold State.deferOwner
    dsimp only
    split
    · exact moves_to Move.drawn.moves (.refl _)
    all_goals exact SameStores.moves (.refl s)
  | hush => exact moves_to Move.drawn.moves (.refl _)
  | survey => exact moves_to Move.drawn.moves (.refl _)

theorem moves_grant (s : State) (o : Owner) : Moves s (s.grant o) := by
  cases hrx : s.rx.busy with
  | false => rw [State.grant_of_idle hrx]; exact moves_granted s o
  | true => rw [State.grant_of_busy hrx]; exact (moves_granted s o).trans (moves_deferOwner _ o)

/-- The end of an event: grants, and the event unit's judgement (R15, R169). -/
theorem Moves.finish {s u : State} (h : Moves s u) : Moves s u.finish :=
  (State.arbitrateUpTo_induct (P := Moves s) (fun v o hv _ _ _ => hv.trans (moves_grant v o)) 19 u h).trans
    (moves_settle _)

theorem moves_judgeBusy (s : State) : Moves s s.judgeBusy := by
  unfold State.judgeBusy
  repeat' split
  · exact moves_deferOwner s _
  all_goals exact .refl

/-! ### Table and ranks -/

theorem Mark.missed_inRange {n : Neighbour} (h : n.InRange) (m : Millis) : (n.missedOne m).InRange := by
  obtain ⟨⟨hpos, hlong⟩, hheard, hmiss, hnoted, hmargin, hperiod⟩ := h
  refine ⟨?_, Nat.zero_le 7, Nat.min_le_left .., Nat.min_le_left .., hmargin, hperiod⟩
  simp only [Neighbour.missedOne, addMark, List.length_take, List.length_cons]
  omega

theorem smoothed_le_63 {old new : Nat} (ho : old ≤ 63) (hn : new ≤ 63) : smoothed old new ≤ 63 := by
  unfold smoothed
  omega

theorem periodOf_range (p : BitVec 6) : 2 ≤ periodOf p ∧ periodOf p ≤ 60 := by
  unfold periodOf clampTo
  omega

/-- A known sender's beacon keeps its entry's fields in range (R30, R31). -/
theorem Neighbour.InRange.afterBeacon {n : Neighbour} (h : n.InRange) (b : BeaconHeader) {margin : Nat}
    (hm : margin ≤ 63) (upAfter : Nat) (nowMs : Millis) : (n.afterBeacon b margin upAfter nowMs).InRange := by
  obtain ⟨hhistory, hheard, hmiss, hnoted, hmargin, hperiod⟩ := h
  by_cases hserial : b.serial = n.serial
  · rw [Neighbour.afterBeacon, if_pos hserial]
    exact ⟨hhistory, hheard, hmiss, hnoted, smoothed_le_63 hmargin hm, hperiod⟩
  · rw [Neighbour.afterBeacon, if_neg hserial, Neighbour.promoted_eq]
    refine ⟨?_, Nat.min_le_left .., Nat.zero_le 15, Nat.zero_le 15, smoothed_le_63 hmargin hm, periodOf_range _⟩
    simp only [Neighbour.heardAgain, addMark, List.length_take, List.length_cons]
    omega

theorem Neighbour.afterBeacon_address (n : Neighbour) (b : BeaconHeader) (margin upAfter : Nat) (nowMs : Millis) :
    (n.afterBeacon b margin upAfter nowMs).address = n.address := by
  by_cases hserial : b.serial = n.serial
  · rw [Neighbour.afterBeacon, if_pos hserial]
    rfl
  · rw [Neighbour.afterBeacon, if_neg hserial, Neighbour.promoted_eq]
    rfl

theorem State.findNeighbour_some {s : State} {a : Address} {i : Fin 32} {n : Neighbour}
    (h : s.findNeighbour a = some i) (hn : s.table[i] = some n) : n.address = a := by
  have := List.find?_some h
  simpa [hn] using this

theorem State.findNeighbour_none {s : State} {a : Address} (h : s.findNeighbour a = none) (j : Fin 32) (n : Neighbour)
    (hn : s.table[j] = some n) : n.address ≠ a := by
  have := List.find?_eq_none.1 h j (List.mem_finRange j)
  simpa [hn] using this

/-- The entry made for an unknown sender is one for an address of its own (R26). -/
theorem State.newNeighbour_seats {s : State} {b : BeaconHeader} {margin : Nat} (hm : margin ≤ 63)
    (hstation : noStation b.sender = false) (hown : b.sender ≠ s.own) (hunknown : s.findNeighbour b.sender = none)
    (i : Fin 32) : s.Seats i (s.newNeighbour b margin) :=
  .inl ⟨⟨by simp [State.newNeighbour], show 1 ≤ 7 by omega, Nat.zero_le 15, Nat.zero_le 15, hm, periodOf_range _⟩,
    hown, hstation, fun j m _ hj => State.findNeighbour_none hunknown j m hj⟩

theorem moves_unknownBeacon {s : State} {b : BeaconHeader} {margin : Nat} (hm : margin ≤ 63)
    (hstation : noStation b.sender = false) (hown : b.sender ≠ s.own) (hunknown : s.findNeighbour b.sender = none) :
    Moves s (s.unknownBeacon b margin) := by
  have seats (i : Fin 32) (n : Neighbour) (hn : some (s.newNeighbour b margin) = some n) : s.Seats i n := by
    cases hn
    exact State.newNeighbour_seats hm hstation hown hunknown i
  unfold State.unknownBeacon
  split
  · next i _ => exact (Move.tableWritten (seats i) ((SlotWritten.setNeighbour s i _).seated rfl)).moves
  · split
    · next i hvictim =>
      obtain ⟨n, hn, -⟩ := (s.mem_replaceable i).1 (List.mem_of_find?_eq_some hvictim)
      have hcfg : (s.removeNeighbour i).cfg = s.cfg := by simp [State.cfg]
      have hnew : (s.removeNeighbour i).newNeighbour b margin = s.newNeighbour b margin := by
        simp [State.newNeighbour, State.nowMs, hcfg]
      exact (Move.tableWritten (hnew ▸ seats i)
        (((SlotWritten.removeNeighbour hn).again
          (some ((s.removeNeighbour i).newNeighbour b margin))).seated hcfg)).moves
    · exact (Move.counted (by simp [CountsOnce])).moves

theorem moves_takeBeacon {s : State} {b : BeaconHeader} {margin : Nat} (hm : margin ≤ 63)
    (hstation : noStation b.sender = false) (hown : b.sender ≠ s.own) : Moves s (s.takeBeacon b margin) := by
  unfold State.takeBeacon
  split
  · next hunknown => exact moves_unknownBeacon hm hstation hown hunknown
  · next i hi =>
    split
    · exact .refl
    · next n hn =>
      rcases s.knownBeacon_cases i n b margin with ⟨hsame, -⟩ | hrefreshed
      · rw [hsame]
      · refine (Move.tableWritten (fun n' hn' => .inr ⟨n, hn, ?_⟩) hrefreshed).moves
        cases hn'
        exact ⟨n.afterBeacon_address .., fun h => h.afterBeacon b hm _ _⟩

/-- A known sender's margin moves within its range (R35). -/
theorem moves_takeMargin (s : State) (sender : Address) {margin : Nat} (hm : margin ≤ 63) :
    Moves s (s.takeMargin sender margin) := by
  unfold State.takeMargin
  split
  · exact .refl
  · next i _ =>
    split
    · exact .refl
    · next n hn =>
      split
      · exact .refl
      · refine (Move.tableWritten (fun n' hn' => .inr ⟨n, hn, ?_⟩)
          ((SlotWritten.setNeighbour s i _).refreshed (told' := False) .rfl)).moves
        cases hn'
        refine ⟨rfl, fun h => ?_⟩
        obtain ⟨hhistory, hheard, hmiss, hnoted, hmargin, hperiod⟩ := h
        exact ⟨hhistory, hheard, hmiss, hnoted, smoothed_le_63 hmargin hm, hperiod⟩

theorem moves_missBeacon {s : State} {i : Fin 32} {n : Neighbour} (hn : s.table[i] = some n) :
    Moves s (s.missBeacon i n) := by
  refine (Move.tableWritten (fun n' hn' => ?_) (State.missBeacon_refreshes hn)).moves
  split at hn' <;> cases hn'
  exact .inr ⟨n, hn, rfl, fun h => Mark.missed_inRange h _⟩

/-! ### First copies, copies and HUSHes -/

/-- The delivery entry of a CARRY that the ring takes (R146, R147). -/
def State.ringEntry (s : State) (h : CarryHeader) : Delivery where
  ident := carryIdent h
  goal := carryGoal h
  sender := h.sender
  hops := h.hops
  length := h.length.toNat
  chain := s.free.take (blocksFor h.length.toNat)

theorem moves_offerDelivery (s : State) {h : CarryHeader} (p : List Byte) (hshort : h.length.toNat ≤ 112) :
    Moves s (s.offerDelivery h p) := by
  unfold State.offerDelivery
  split
  · next hring =>
    split
    · exact (Move.counted (by simp [CountsOnce])).moves
    · next s1 chain halloc =>
      have hroom : blocksFor h.length.toNat ≤ s.free.length := by
        by_contra hlt
        rw [State.allocate_none.2 (not_le.1 hlt)] at halloc
        cases halloc
      obtain ⟨rfl, -, rfl, -⟩ := State.allocate_some halloc
      exact (Move.delivered (d := s.ringEntry h) p hring hroom hshort rfl).moves
  · exact (Move.counted (by simp [CountsOnce])).moves

theorem moves_insertSeen (s : State) (x : Seen) : Moves s (s.insertSeen x) := SameStores.moves (.refl s)

theorem moves_updateSeen (s : State) (k : Ident) (f : Seen → Seen) : Moves s (s.updateSeen k f) :=
  SameStores.moves (.refl s)

theorem moves_offerHush (s : State) (k : Ident) : Moves s (s.offerHush k) := by
  unfold State.offerHush
  split
  · next hroom =>
    exact moves_to (Move.hushQueued (q := s.hushQueue ++ [k]) fun _ => by simp; omega).moves (.refl _)
  · exact (Move.counted (by simp [CountsOnce])).moves

theorem moves_anchorFirstCopy (s : State) {h : CarryHeader} (p : List Byte) (hshort : h.length.toNat ≤ 112) :
    Moves s (s.anchorFirstCopy h p) := by
  unfold State.anchorFirstCopy
  split
  · exact ((moves_offerDelivery s p hshort).trans (moves_insertSeen _ _)).trans (moves_offerHush _ _)
  · exact moves_offerDelivery s p hshort

theorem moves_applyArrival (s : State) {h : CarryHeader} (p : List Byte) (hshort : h.length.toNat ≤ 112) :
    Moves s (s.applyArrival h p (s.arrivalOf h)) := by
  cases ha : s.arrivalOf h with
  | held =>
    obtain ⟨hindex, hroom⟩ := State.arrivalOf_held ha
    obtain ⟨i, hi⟩ := Option.ne_none_iff_exists'.1 hindex
    rw [State.applyArrival_held p hi ha]
    have hstores : s.Stores i (s.relayEntry h) := ⟨State.freeIndex_some hi, hroom, hshort, rfl⟩
    exact moves_to ((Move.held p hstores rfl).moves.tail .drawn) (.refl _)
  | addressedHere => exact .refl
  | _ => exact (Move.counted (by simp [CountsOnce])).moves

theorem moves_relayFirstCopy (s : State) {h : CarryHeader} (p : List Byte) (hshort : h.length.toNat ≤ 112) :
    Moves s (s.relayFirstCopy h p) := by
  have happlied := moves_applyArrival s p hshort
  unfold State.relayFirstCopy
  dsimp only
  split
  · exact (happlied.trans (moves_offerDelivery _ p hshort)).trans (moves_insertSeen _ _)
  · exact happlied.trans (moves_insertSeen _ _)

/-- No copy ends an entry by its rank: that is the recheck's (R86, R89, R91). -/
theorem moves_judgeCopy (s : State) (i : Fin 16) (rank : Option Rank) (copies : Nat) :
    Moves s (s.judgeCopy i rank copies) := by
  unfold State.judgeCopy
  repeat' split
  all_goals first
    | exact .refl
    | exact moves_removeHold_of_ne s i (by simp)

theorem moves_judgeHush (s : State) (i : Fin 16) : Moves s (s.judgeHush i) := by
  unfold State.judgeHush
  repeat' split
  all_goals first
    | exact .refl
    | exact moves_removeHold_of_ne s i (by simp)

theorem moves_takeCopy (s : State) (e : Seen) (h : CarryHeader) : Moves s (s.takeCopy e h) := by
  have hcounted := moves_updateSeen s e.ident (Seen.heardCopy (carryGoal h) (carryRank h))
  unfold State.takeCopy
  dsimp only
  split
  · split
    · split
      · exact hcounted.trans (moves_judgeCopy ..)
      · exact hcounted
    · split
      · exact (hcounted.trans (moves_updateSeen _ e.ident _)).trans (moves_offerHush _ _)
      · exact hcounted
    all_goals exact hcounted
  · exact hcounted

theorem moves_takeCarry (s : State) {h : CarryHeader} (p : List Byte) (hshort : h.length.toNat ≤ 112) :
    Moves s (s.takeCarry h p) := by
  unfold State.takeCarry
  split
  · exact moves_takeCopy s _ h
  · split
    · exact (Move.counted (by simp [CountsOnce])).moves
    · split
      · exact moves_anchorFirstCopy s p hshort
      · exact moves_relayFirstCopy s p hshort

theorem moves_takeHush (s : State) (h : HushHeader) : Moves s (s.takeHush h) := by
  unfold State.takeHush
  split
  · repeat' split
    · exact moves_judgeHush s _
    all_goals exact .refl
  · exact moves_insertSeen s _

/-! ### Expiries, the phases, SUBMIT, SILENCE -/

/-- Of a recheck's endings STALE_RANK is that of a message with a sender rank (R91). -/
theorem State.recheck_staleRank {s : State} {e : Hold} (h : s.recheck e = some .staleRank) : e.senderRank ≠ none := by
  unfold State.recheck at h
  split at h
  · cases h
  · split at h
    · next hrank => simp [hrank]
    · repeat' split at h
      all_goals cases h

theorem moves_expireHold {s : State} {i : Fin 16} {e : Hold} (he : s.hold[i] = some e) :
    Moves s (s.expireHold i e) := by
  unfold State.expireHold
  split
  · next k hk =>
    refine moves_removeHold s i fun f hf hstale => ?_
    subst hstale
    obtain rfl : e = f := Option.some.inj (he.symm.trans hf)
    exact State.recheck_staleRank hk
  · exact (Move.restated he rfl).moves

theorem moves_expireEcho {s : State} {i : Fin 16} {e : Hold} (he : s.hold[i] = some e) :
    Moves s (s.expireEcho i e) := by
  have hentry : s.unechoedOutcome.hold[i] = some e := by simpa using he
  unfold State.expireEcho
  dsimp only
  split
  · exact (Move.unechoed.moves.tail .drawn).tail (.restated (s := s.unechoedOutcome.drawn) hentry rfl)
  · exact Move.unechoed.moves.trans (moves_removeHold_of_ne _ i (by simp))

theorem moves_clearChannel (s : State) (a : Attempt) : Moves s (s.clearChannel a) := by
  unfold State.clearChannel State.ownerClear
  split
  case h_3 i =>
    split
    · next e he => exact moves_to (Move.restated he rfl).moves (.refl _)
    · exact SameStores.moves (.refl s)
  all_goals exact SameStores.moves (.refl s)

theorem moves_holdSent (s : State) (i : Fin 16) : Moves s (s.holdSent i) := by
  unfold State.holdSent
  split
  · exact .refl
  · next e he =>
    split
    · split
      · exact moves_removeHold_of_ne s i (by simp)
      · exact (Move.restated he rfl).moves
    · exact moves_removeHold_of_ne s i (by simp)

theorem moves_ownerSent (s : State) (o : Owner) : Moves s (s.ownerSent o) := by
  cases o with
  | beacon =>
    have hscheduled : Moves s _ := moves_to Move.drawn.moves (u := { s.drawn with
      beaconSerial := s.beaconSerial + 1
      beacon := .waiting (s.nowMs + (s.cfg.beaconPeriod * 1000 + s.drawValue 255)) }) (.refl _)
    exact hscheduled.tail .density
  | hush =>
    exact moves_to (Move.hushQueued (q := s.hushQueue.drop 1) fun h => by simp; omega).moves (.refl _)
  | hold i => exact moves_holdSent s i
  | survey => exact SameStores.moves (by simp [SameStores, State.ownerSent])

theorem moves_endBody (s : State) (a : Attempt) : Moves s (s.endBody a) :=
  (SameStores.moves (u := s.released) (.refl s)).trans (moves_ownerSent _ a.owner)

theorem State.freeSlot_some {s : State} {k : Fin 4} (h : s.freeSlot = some k) : s.slots[k] = .free := by
  simpa using List.find?_some h

/-- What a SUBMIT that is not refused found: a payload of at most 112 bytes, a FREE slot, a free index and blocks
enough (R153). -/
theorem State.submitRefusal_found {s : State} {d g : Byte} {dest : Address} {n : Nat}
    (h : s.submitRefusal d g dest n = none) :
    n ≤ 112 ∧ (∃ k, s.freeSlot = some k) ∧ (∃ i, s.freeIndex = some i) ∧ blocksFor n ≤ s.free.length := by
  unfold State.submitRefusal at h
  split at h
  · cases h
  · next hargs =>
    iterate 2 (split at h; · cases h)
    split at h
    · cases h
    · next hfull =>
      split at h
      · cases h
      · next hroom =>
        exact ⟨by omega, Option.ne_none_iff_exists'.1 fun hk => hfull (.inl hk),
          Option.ne_none_iff_exists'.1 fun hi => hfull (.inr hi), by omega⟩

theorem moves_acceptSubmit {s : State} {d g : Byte} {dest : Address} {p : List Byte}
    (h : s.submitRefusal d g dest p.length = none) (goal : Goal) (hops : Byte) :
    Moves s (s.acceptSubmit goal dest hops p) := by
  obtain ⟨hshort, ⟨k, hslot⟩, ⟨i, hindex⟩, hroom⟩ := State.submitRefusal_found h
  have hstores : s.Stores i (s.submitEntry k goal dest hops p.length) :=
    ⟨State.freeIndex_some hindex, hroom, hshort, rfl⟩
  have hsubmitted : Moves s _ := (Move.submitted p hstores rfl rfl (State.freeSlot_some hslot)).moves
  rw [State.acceptSubmit_eq goal dest hops p hslot hindex hroom]
  by_cases hseeded : s.serial = none
  · refine moves_to ((hsubmitted.tail .drawn).tail .drawn) ?_
    simp [SameStores, State.seededJitter, hseeded, State.stored, State.drawn, State.submitEntry]
  · refine moves_to (hsubmitted.tail .drawn) ?_
    simp [SameStores, State.seededJitter, hseeded, State.stored, State.drawn, State.submitEntry]

theorem moves_silenced (s : State) : Moves s s.silenced := by
  have hone (v : State) (i : Fin 16) : Moves v (v.silenceHold i) := by
    unfold State.silenceHold
    split
    · exact .refl
    · exact moves_removeHold_of_ne v i (by simp)
  have hall (l : List (Fin 16)) : ∀ v, Moves v (l.foldl State.silenceHold v) := by
    induction l with
    | nil => exact fun v => .refl
    | cons i l ih => exact fun v => (hone v i).trans (ih _)
  have hcancelled : Moves s (State.cancelAttempt { s with station := .silent }) :=
    SameStores.moves (by simp [SameStores])
  exact moves_to (hcancelled.trans (hall (List.finRange 16) _))
    (by simp [SameStores, State.silenced, State.silenceHolds])

end Sys2Proof.Machine
end

section
namespace Sys2Proof.Machine

/-! ### An effect moves the stores, or begins them anew -/

/-- The blocks begin anew: at reset values, or with a record accepted at reset values (R181, R184, R186). -/
inductive Begins (s : State) : State → Prop where
  | reset {u : State} (h : SameStores s.resetBlocks u) : Begins s u
  | accepted {v u : State} {r : Record} (hv : v = s ∨ v = s.resetBlocks)
      (hr : StartLaw s → AtReset v ∧ r.inRange) (h : SameStores (v.acceptRecord r) u) : Begins s u

theorem SameStores.trans {s v u : State} (h : SameStores s v) (h' : SameStores v u) : SameStores s u := by
  simp_all [SameStores]

theorem Begins.stores {s v u : State} (h : Begins s v) (hu : SameStores v u) : Begins s u := by
  cases h with
  | reset h => exact .reset (h.trans hu)
  | accepted hv hr h => exact .accepted hv hr (h.trans hu)

/-- A record is accepted in the load or in AWAITING_CONFIG, where the blocks are at reset values (R182, R185). -/
theorem StartLaw.atReset_of_load {s : State} (hs : StartLaw s)
    (hload : s.loader = .reading ∨ s.station = .awaitingConfig) : AtReset s := by
  rcases hload with hreading | hawait
  · exact hs.atReset (.inl (hs.loading (by rw [hreading]; simp)).1)
  · exact hs.atReset (.inr hawait)

/-- The record in force is in range (R183, R184). -/
theorem StartLaw.inRange {s : State} (hs : StartLaw s) {r : Record} (hr : s.record = some r) : r.inRange := by
  have ofReset (h : AtReset s) : r.inRange := by
    obtain ⟨hnone, -⟩ := h
    rw [hr] at hnone
    cases hnone
  have ofDuty (hd : s.station = .running ∨ s.station = .silent) : r.inRange := by
    obtain ⟨⟨r', hr', hrange⟩, -⟩ := hs.duty hd
    rw [hr] at hr'
    cases hr'
    exact hrange
  cases hstation : s.station with
  | loading => exact ofReset (hs.atReset (.inl hstation))
  | awaitingConfig => exact ofReset (hs.atReset (.inr hstation))
  | running => exact ofDuty (.inl hstation)
  | silent => exact ofDuty (.inr hstation)

theorem carryBad_eq_false {h : CarryHeader} {p : List Byte} {check : BitVec 16} {levels : List Int}
    (hgood : carryBad h p check levels = false) : h.length.toNat ≤ 112 := by
  simp only [carryBad, carryMalformed, Bool.or_eq_false_iff, decide_eq_false_iff_not] at hgood
  omega

theorem beaconBad_eq_false {h : BeaconHeader} {check : BitVec 16} {levels : List Int}
    (hgood : beaconBad h check levels = false) : noStation h.sender = false := by
  simp only [beaconBad, Bool.or_eq_false_iff] at hgood
  exact hgood.2

theorem moves_takeGood (s : State) : Moves s s.takeGood :=
  (SameStores.moves (u := { s with rx := .searching }) (.refl s)).tail (.counted (by simp [CountsOnce]))

/-- What an effect does to the stores. -/
theorem Effect.stores {s u : State} (h : Effect s u) : Moves s u ∨ Begins s u := by
  have moved {v : State} (h : Moves s v) : Moves s v.finish ∨ Begins s v.finish := .inl h.finish
  have untouched {v : State} (h : SameStores s v) : Moves s v.finish ∨ Begins s v.finish := moved h.moves
  induction h with
  | aside h _ => exact .inl h.moves
  | answered _ bytes ih =>
    rcases ih with h | h
    · exact .inl (moves_to h (.refl _))
    · exact .inr (h.stores (.refl _))
  | reset => exact .inr (.reset (.refl _))
  | loading _ h _ => exact .inl (SameStores.moves (h.sameStores.trans (.refl _)))
  | @accepted bytes hnode hload =>
    refine .inr (.accepted (r := recordOf bytes) (.inl rfl)
      (fun hs => ⟨hs.atReset_of_load hload, recordOf_inRange hnode⟩) ?_)
    unfold State.acceptBytes
    dsimp only
    split <;> exact .refl _
  | cleared => exact .inr (.reset (.refl _))
  | restarted hr => exact .inr (.accepted (.inr rfl) (fun hs => ⟨atReset_resetBlocks s, hs.inRange hr⟩) (.refl _))
  | judgedBusy rx =>
    exact moved ((SameStores.moves (u := { s with rx := rx }) (.refl s)).trans (moves_judgeBusy _))
  | discarded hf =>
    have hcounted : CountsOnce _ := hf.elim (fun h => .inr (.inl h)) fun h => by simp [CountsOnce, h]
    exact .inl ((SameStores.moves (u := { s with rx := .searching }) (.refl s)).tail (.counted hcounted))
  | beaconTaken hgood hother =>
    exact moved ((moves_takeGood s).trans
      (moves_takeBeacon (s := s.takeGood) (marginOf_le _) (beaconBad_eq_false hgood) hother))
  | carryTaken hgood =>
    exact moved (((moves_takeGood s).trans (moves_takeMargin _ _ (marginOf_le _))).trans
      (moves_takeCarry _ _ (carryBad_eq_false hgood)))
  | hushTaken h levels =>
    exact moved (((moves_takeGood s).trans (moves_takeMargin _ _ (marginOf_le _))).trans (moves_takeHush _ h))
  | surveyTaken h levels =>
    exact moved (moves_to ((moves_takeGood s).tail (.tallied h levels)) (.refl _))
  | clear _ _ => exact .inl (moves_clearChannel s _)
  | phase _ _ _ _ h _ => exact .inl (SameStores.moves (h.sameStores.trans (.refl _)))
  | sent _ _ => exact moved (moves_endBody s _)
  | missed hn => exact .inl (moves_to (moves_missBeacon hn) (.refl _))
  | beaconDue r _ => exact untouched (.refl s)
  | beaconReplaced r' _ => exact .inl (SameStores.moves (.refl s))
  | holdExpired he _ => exact moved (moves_expireHold he)
  | echoExpired he _ => exact .inl (moves_to (moves_expireEcho he) (.refl _))
  | hushStands _ => exact untouched (.refl s)
  | surveyDue record _ => exact untouched (.refl s)
  | submitted hnone goal hops => exact .inl (moves_to (moves_acceptSubmit hnone goal hops) (.refl _))
  | slotRead k n => exact .inl (moves_to (Move.slotRead k).moves (.refl _))
  | released hring => exact .inl (moves_to (Move.released hring).moves (.refl _))
  | statsCleared => exact .inl Move.statsCleared.moves
  | tallyCleared => exact .inl Move.tallyCleared.moves
  | silenced _ => exact .inl ((moves_silenced s).trans (moves_settle _))
  | resumed _ => exact untouched (.refl s)
  | surveyStopped => exact untouched (by simp [SameStores])

/-- A law of the stores that every move keeps, and every beginning, is kept. -/
theorem kept_of_moves {P : State → Prop} (hmove : ∀ s u, P s → Move s u → P u) (hreset : ∀ s, P s → P s.resetBlocks)
    (haccept : ∀ s r, P s → P (s.acceptRecord r)) : Kept P := by
  have hmoves (s u : State) (hs : P s) (h : Moves s u) : P u := by
    induction h with
    | refl => exact hs
    | tail _ hm ih => exact hmove _ _ ih hm
  refine kept_of_effects (fun s u h hs => hmoves s u hs h.moves) fun s u hs h => ?_
  rcases h.stores with h | h
  · exact hmoves s u hs h
  · cases h with
    | reset h => exact hmoves _ u (hreset s hs) h.moves
    | accepted hv _ h =>
      refine hmoves _ u (haccept _ _ ?_) h.moves
      rcases hv with rfl | rfl
      · exact hs
      · exact hreset s hs

/-- A slot written and the refresh after it leave the other stores (R37, R45). -/
theorem SlotRefreshed.eq {s u : State} {i : Fin 32} {o : Option Neighbour} {told : Prop}
    (h : SlotRefreshed s u i o told) :
    u = { s with table := setAt s.table i o, ranks := u.ranks, statuses := u.statuses } ∧ u.ranks = u.formedRanks := by
  obtain ⟨v, ⟨statuses, rfl, -⟩, rfl⟩ := h
  rw [State.recompute_eq]
  exact ⟨rfl, rfl⟩

/-- No move reaches the record (R184). -/
theorem Move.record {s u : State} (h : Move s u) : u.record = s.record := by
  cases h with
  | aside h => exact h.1
  | tableWritten _ h => rw [h.eq.1]
  | echoed | unechoed | density | dropped _ _ => simp
  | _ => rfl

/-- What a record in force says of power floor, ceiling and thresholds: the defaults do, and any record accepted (R181,
R183). -/
def Record.Sound (r : Record) : Prop := r.powerFloor ≤ r.powerCeiling ∧ 0 < r.upshiftAfter ∧ 0 < r.downshiftAfter

theorem Record.inRange.sound {r : Record} (h : r.inRange) : r.Sound := by
  obtain ⟨-, -, -, -, -, -, -, -, -, -, -, -, -, -, -, hdown, hup, hpower, -⟩ := h
  exact ⟨hpower, by omega, by omega⟩

theorem Record.default_sound : Record.default.Sound := ⟨by decide, by decide, by decide⟩

theorem StartLaw.sound {s : State} (hs : StartLaw s) : s.cfg.Sound := by
  cases hr : s.record with
  | none =>
    rw [State.cfg, hr]
    exact Record.default_sound
  | some r =>
    rw [State.cfg, hr]
    exact (hs.inRange hr).sound

/-- Under the start-up law a law of the stores is kept that every move keeps and that holds where the blocks begin. -/
theorem kept_with_start {P : State → Prop} (hmove : ∀ s u, s.cfg.Sound → P s → Move s u → P u)
    (hreset : ∀ s, AtReset s → P s) (haccept : ∀ s r, AtReset s → r.inRange → P (s.acceptRecord r)) :
    Kept fun s => StartLaw s ∧ P s := by
  have hmoves (s u : State) (hsound : s.cfg.Sound) (hs : P s) (h : Moves s u) : P u ∧ u.cfg.Sound := by
    induction h with
    | refl => exact ⟨hs, hsound⟩
    | tail _ hm ih => exact ⟨hmove _ _ ih.2 ih.1 hm, by rw [State.cfg, hm.record]; exact ih.2⟩
  intro s u hs h
  refine ⟨startLawIsKept s u hs.1 h, ?_⟩
  unfold step at h
  split at h
  · cases h
    exact hs.2
  · next c rest _ =>
    obtain ⟨hstart, hP⟩ := hs
    obtain ⟨w, hw, he⟩ := exec_does c { s with pending := rest }
    rw [hw] at h
    cases h
    have hback := Background.front s rest c.time
    have hfront : StartLaw ({ s with pending := rest }.advance c.time) := hstart
    obtain ⟨hP, hsound⟩ := hmoves s _ hstart.sound hP hback.moves
    rcases he.stores with hm | hb
    · exact (hmoves _ u hsound hP hm).1
    · cases hb with
      | reset h =>
        refine (hmoves _ u ?_ (hreset _ (atReset_resetBlocks _)) h.moves).1
        exact Record.default_sound
      | accepted hv hr h =>
        obtain ⟨hatReset, hrange⟩ := hr hfront
        refine (hmoves _ u ?_ (haccept _ _ hatReset hrange) h.moves).1
        exact hrange.sound

end Sys2Proof.Machine
end

section
namespace Sys2Proof.Machine

/-! ### Places of the hold list and of the neighbour table -/

section Places

variable {α β : Type} {n : Nat}

/-- The entries before and after a place stand, whatever is written to it. -/
theorem entries_setAt (v : Vector (Option α) n) (i : Fin n) : ∃ before after : List α,
    v.toList.filterMap id = before ++ (v[i].toList ++ after)
      ∧ ∀ o : Option α, (setAt v i o).toList.filterMap id = before ++ (o.toList ++ after) := by
  have hi : i.1 < v.toList.length := by simp
  have hone (o : Option α) : [o].filterMap id = o.toList := by cases o <;> rfl
  refine ⟨(v.toList.take i).filterMap id, (v.toList.drop (i + 1)).filterMap id, ?_, fun o => ?_⟩
  · conv_lhs => rw [← List.take_append_drop i v.toList, List.drop_eq_getElem_cons hi, ← List.singleton_append]
    simp only [List.filterMap_append, hone]
    rfl
  · rw [setAt, Vector.toList_set, List.set_eq_take_append_cons_drop, if_pos hi, ← List.singleton_append]
    simp only [List.filterMap_append, hone]

/-- The entries are those at the places. -/
theorem mem_entries {v : Vector (Option α) n} {e : α} : e ∈ v.toList.filterMap id ↔ ∃ i : Fin n, v[i] = some e := by
  rw [List.mem_filterMap]
  constructor
  · rintro ⟨o, ho, rfl⟩
    obtain ⟨i, hi, hget⟩ := Vector.mem_iff_getElem.1 (Vector.mem_toList_iff.1 ho)
    exact ⟨⟨i, hi⟩, hget⟩
  · rintro ⟨i, hi⟩
    exact ⟨some e, Vector.mem_toList_iff.2 (hi ▸ Vector.getElem_mem i.2), rfl⟩

/-- A property of every entry after a write: of the one written, and of those at the other places. -/
theorem forall_entries_setAt {v : Vector (Option α) n} {P : α → Prop} (h : ∀ e ∈ v.toList.filterMap id, P e)
    (i : Fin n) {o : Option α} (ho : ∀ e, o = some e → P e) : ∀ e ∈ (setAt v i o).toList.filterMap id, P e := by
  intro e he
  obtain ⟨j, hj⟩ := mem_entries.1 he
  rw [setAt_get] at hj
  split at hj
  · exact ho e hj
  · exact h e (mem_entries.2 ⟨j, hj⟩)

end Places

/-! ### The message store (R117, R118; log 6) -/

theorem step_keeps_storeForm : Kept StoreForm := by
  refine kept_of_moves (fun s u hs h => ?_) (fun s hs => hs) fun s r hs => hs
  unfold StoreForm at hs ⊢
  cases h with
  | aside h => obtain ⟨-, -, -, -, -, -, hmem, -⟩ := h; rwa [hmem]
  | tableWritten _ h => rw [h.eq.1]; exact hs
  | held p _ _ | submitted p _ _ _ _ | delivered p _ _ _ _ => exact fillChain_wf hs
  | echoed | unechoed | density | dropped _ _ => simpa using hs
  | _ => exact hs

/-- How often a block stands on the free list and in chains. -/
def State.places (s : State) (b : Block) : Nat :=
  s.free.count b + (s.holds.flatMap Hold.chain).count b + (s.ring.flatMap Delivery.chain).count b

theorem blockLaw_iff (s : State) : BlockLaw s ↔ ∀ b, s.places b = (List.finRange 96).count b := by
  simp only [BlockLaw, List.perm_iff_count, State.places, State.chained, List.count_append, Nat.add_assoc]

/-- The chains of the hold list as an entry comes to a place, or goes from it. -/
theorem State.holds_count {s u : State} {i : Fin 16} {o : Option Hold} (hu : u.hold = setAt s.hold i o) (b : Block) :
    (u.holds.flatMap Hold.chain).count b + (s.hold[i].toList.flatMap Hold.chain).count b
      = (s.holds.flatMap Hold.chain).count b + (o.toList.flatMap Hold.chain).count b := by
  obtain ⟨before, after, hs, hset⟩ := entries_setAt s.hold i
  simp only [State.holds, hu, hs, hset, List.flatMap_append, List.count_append]
  omega

theorem count_take_drop (l : List Block) (n : Nat) (b : Block) :
    (l.take n).count b + (l.drop n).count b = l.count b := by
  rw [← List.count_append, List.take_append_drop]

/-- A chain taken from the head of the free list stands in an entry that was not there (R120). -/
theorem State.stored_places {s u : State} {i : Fin 16} {e : Hold} (h : s.Stores i e)
    (hu : u.free = s.free.drop (blocksFor e.length) ∧ u.hold = setAt s.hold i (some e) ∧ u.ring = s.ring) (b : Block) :
    u.places b = s.places b := by
  obtain ⟨hfree, hhold, hring⟩ := hu
  have hcount := State.holds_count hhold b
  have htake := count_take_drop s.free (blocksFor e.length) b
  simp only [h.place, Option.toList, List.flatMap_nil, List.flatMap_singleton, List.count_nil, h.chain] at hcount
  simp only [State.places, hfree, hring]
  omega

/-- At reset every block is on the free list (R119). -/
theorem blockLaw_resetBlocks (s : State) : BlockLaw s.resetBlocks :=
  (blockLaw_iff _).2 fun b => by simp [State.places, State.resetBlocks, State.reset, State.holds]

theorem step_keeps_blockLaw : Kept BlockLaw := by
  refine kept_of_moves (fun s u hs h => ?_) (fun s _ => blockLaw_resetBlocks s) fun s r hs => hs
  · rw [blockLaw_iff] at hs ⊢
    intro b
    rw [← hs b]
    cases h with
    | aside h =>
      obtain ⟨-, -, -, -, hhold, -, -, hfree, -, -, -, -, hring, -⟩ := h
      simp only [State.places, State.holds, hhold, hfree, hring]
    | tableWritten _ h => rw [h.eq.1]; rfl
    | @restated i e f he hf =>
      have hchain : f.chain = e.chain := by rw [hf]
      have hcount := State.holds_count (u := s.setHold i (some f)) rfl b
      simp only [he, Option.toList, List.flatMap_singleton, hchain] at hcount
      simp only [State.places, State.setHold_free, State.setHold_ring]
      omega
    | @dropped i e k he _ =>
      have hcount := State.holds_count (s := s)
        (u := State.completeSlot { s with hold := setAt s.hold i none, free := s.free ++ e.chain } e k) (o := none)
        (i := i) (by simp) b
      simp only [he, Option.toList, List.flatMap_singleton, List.flatMap_nil, List.count_nil] at hcount
      simp only [State.places, State.completeSlot_frame, List.count_append]
      omega
    | @held i e p h _ => exact State.stored_places (u := s.stored i e p) h ⟨rfl, rfl, rfl⟩ b
    | @submitted i e k p h _ _ _ =>
      exact State.stored_places
        (u := { s.stored i e p with slots := setAt s.slots k (.pending e.ident.serial) }) h ⟨rfl, rfl, rfl⟩ b
    | @delivered d p _ _ _ hchain =>
      have htake := count_take_drop s.free (blocksFor d.length) b
      simp only [State.places, State.holds, List.flatMap_append, List.flatMap_singleton, List.count_append, hchain]
      omega
    | released hring =>
      simp only [State.places, State.holds, hring, List.flatMap_cons, List.count_append]
      omega
    | echoed | unechoed | density => simp [State.places, State.holds]
    | _ => rfl

theorem ChainLaw.of_same {s u : State} (h : ChainLaw s) (hhold : u.hold = s.hold) (hring : u.ring = s.ring) :
    ChainLaw u := by
  unfold ChainLaw State.holds at h ⊢
  rwa [hhold, hring]

/-- At reset no chain holds a block (R119). -/
theorem chainLaw_resetBlocks (s : State) : ChainLaw s.resetBlocks := by
  refine ⟨fun e he => ?_, nofun⟩
  exact absurd (show e ∈ (Vector.replicate 16 (none : Option Hold)).toList.filterMap id from he) (by simp)

theorem step_keeps_chainLaw : Kept ChainLaw := by
  refine kept_of_moves (fun s u hs h => ?_) (fun s _ => chainLaw_resetBlocks s) fun s r hs => hs
  · obtain ⟨hholds, hring⟩ := hs
    have stores {i : Fin 16} {e : Hold} (h : s.Stores i e) :
        ∀ f ∈ (setAt s.hold i (some e)).toList.filterMap id, f.length ≤ 112 ∧ f.chain.length = blocksFor f.length :=
      forall_entries_setAt hholds i fun f hf => by
        cases hf
        exact ⟨h.short, by rw [h.chain, List.length_take, Nat.min_eq_left h.room]⟩
    cases h with
    | aside h =>
      obtain ⟨-, -, -, -, hhold, -, -, -, -, -, -, -, hring', -⟩ := h
      exact ChainLaw.of_same ⟨hholds, hring⟩ hhold hring'
    | tableWritten _ h => rw [h.eq.1]; exact ⟨hholds, hring⟩
    | @restated i e f he hf =>
      refine ⟨forall_entries_setAt hholds i fun f' hf' => ?_, hring⟩
      cases hf'
      rw [hf]
      exact hholds e (mem_entries.2 ⟨i, he⟩)
    | dropped he _ =>
      unfold ChainLaw State.holds
      simp only [State.completeSlot_frame]
      exact ⟨forall_entries_setAt hholds _ nofun, hring⟩
    | held p h _ => exact ⟨stores h, hring⟩
    | submitted p h _ _ _ => exact ⟨stores h, hring⟩
    | @delivered d p _ hroom hshort hchain =>
      refine ⟨hholds, fun d' hd' => ?_⟩
      rcases List.mem_append.1 hd' with hd' | hd'
      · exact hring d' hd'
      · obtain rfl := List.mem_singleton.1 hd'
        exact ⟨hshort, by rw [hchain, List.length_take, Nat.min_eq_left hroom]⟩
    | released hr => exact ⟨hholds, fun d' hd' => hring d' (hr ▸ List.mem_cons_of_mem _ hd')⟩
    | echoed | unechoed | density => exact ChainLaw.of_same ⟨hholds, hring⟩ (by simp) (by simp)
    | _ => exact ⟨hholds, hring⟩

/-- Settles O52: blocks are counted move by move, chains and store go by what is written to them. -/
theorem storeAndBlocksAreKept : Obligations.StoreAndBlocksAreKept :=
  ⟨⟨step_keeps_blockLaw, step_keeps_chainLaw⟩, step_keeps_storeForm⟩

/-! ### Table and ranks (R21, R41, R44) -/

theorem State.mem_neighbours {s : State} {n : Neighbour} : n ∈ s.neighbours ↔ ∃ i : Fin 32, s.table[i] = some n :=
  mem_entries

/-- No address stands twice in the table exactly where each stands in one slot (R21). -/
theorem State.addresses_apart_iff (s : State) : (s.neighbours.map Neighbour.address).Nodup ↔
    ∀ (i j : Fin 32) (m n : Neighbour), i ≠ j → s.table[i] = some m → s.table[j] = some n →
      m.address ≠ n.address := by
  rw [State.neighbours, List.Nodup, List.pairwise_map, List.pairwise_filterMap, List.pairwise_iff_getElem]
  simp only [Vector.length_toList, Vector.getElem_toList, id]
  constructor
  · intro h i j m n hne hm hn
    rcases lt_or_gt_of_ne hne with hlt | hgt
    · exact h i j i.2 j.2 hlt m hm n hn
    · exact (h j i j.2 i.2 hgt n hn m hm).symm
  · intro h i j hi hj hlt m hm n hn
    exact h ⟨i, hi⟩ ⟨j, hj⟩ m n (by simp; omega) hm hn

/-- The table's law but for the start-up law, slot by slot. -/
def TableKept (s : State) : Prop :=
  (∀ (i j : Fin 32) (m n : Neighbour), i ≠ j → s.table[i] = some m → s.table[j] = some n → m.address ≠ n.address)
    ∧ ∀ (i : Fin 32) (n : Neighbour), s.table[i] = some n →
      n.address ≠ s.own ∧ noStation n.address = false ∧ n.InRange

theorem tableLaw_iff (s : State) : TableLaw s ↔ StartLaw s ∧ TableKept s := by
  rw [TableLaw, s.addresses_apart_iff, TableKept]
  simp only [State.mem_neighbours, Neighbour.InRange]
  constructor
  · rintro ⟨hs, hapart, hfields⟩
    exact ⟨hs, hapart, fun i n hn => hfields n ⟨i, hn⟩⟩
  · rintro ⟨hs, hapart, hfields⟩
    exact ⟨hs, hapart, fun n ⟨i, hn⟩ => hfields i n hn⟩

theorem TableKept.of_same {s u : State} (h : TableKept s) (htable : u.table = s.table) (hrecord : u.record = s.record) :
    TableKept u := by
  unfold TableKept State.own State.cfg at h ⊢
  rwa [htable, hrecord]

/-- An entry for an address of its own, or the slot's own entry with fields in range, keeps the law (R26, R30). -/
theorem TableKept.written {s u : State} (h : TableKept s) {i : Fin 32} {o : Option Neighbour}
    (ho : ∀ n, o = some n → s.Seats i n) (htable : u.table = setAt s.table i o) (hrecord : u.record = s.record) :
    TableKept u := by
  obtain ⟨hapart, hfields⟩ := h
  have hown : u.own = s.own := by rw [State.own, State.own, State.cfg, State.cfg, hrecord]
  have hplace {j : Fin 32} {n : Neighbour} (hn : u.table[j] = some n) :
      (i = j ∧ s.Seats i n) ∨ i ≠ j ∧ s.table[j] = some n := by
    rw [htable, setAt_get] at hn
    split at hn
    · next hij => exact .inl ⟨hij, ho n hn⟩
    · next hij => exact .inr ⟨hij, hn⟩
  have hseated {n : Neighbour} (hn : s.Seats i n) (j : Fin 32) (m : Neighbour) (hij : i ≠ j)
      (hm : s.table[j] = some m) :
      m.address ≠ n.address := by
    rcases hn with ⟨-, -, -, hother⟩ | ⟨n', hn', haddress, -⟩
    · exact hother j m hij hm
    · rw [haddress]
      exact (hapart i j n' m hij hn' hm).symm
  refine ⟨fun j k m n hne hm hn => ?_, fun j n hn => ?_⟩
  · rcases hplace hm with ⟨rfl, hm'⟩ | ⟨hij, hm'⟩ <;> rcases hplace hn with ⟨rfl, hn'⟩ | ⟨hik, hn'⟩
    · exact absurd rfl hne
    · exact (hseated hm' k n hik hn').symm
    · exact hseated hn' j m hij hm'
    · exact hapart j k m n hne hm' hn'
  · rw [hown]
    rcases hplace hn with ⟨rfl, ⟨hrange, hother, hstation, -⟩ | ⟨m, hm, haddress, hrange⟩⟩ | ⟨-, hn'⟩
    · exact ⟨hother, hstation, hrange⟩
    · obtain ⟨hother, hstation, hm⟩ := hfields i m hm
      rw [haddress]
      exact ⟨hother, hstation, hrange hm⟩
    · exact hfields j n hn'

/-- An empty table has the law. -/
theorem tableKept_of_empty {s : State} (h : s.table = Vector.replicate 32 none) : TableKept s := by
  have hnone (i : Fin 32) : s.table[i] = none := by simp [h]
  exact ⟨fun i j m n _ hm => by simp [hnone] at hm, fun i n hn => by simp [hnone] at hn⟩

theorem AtReset.table {s : State} (h : AtReset s) : s.table = Vector.replicate 32 none := by
  obtain ⟨-, -, -, -, -, -, htable, -⟩ := h
  exact htable

theorem step_keeps_tableLaw : Kept TableLaw := by
  have hkept : Kept fun s => StartLaw s ∧ TableKept s := by
    refine kept_with_start (fun s u _ hs h => ?_) (fun s h => tableKept_of_empty h.table)
      fun s r h _ => tableKept_of_empty h.table
    have hrecord := h.record
    cases h with
    | aside h => obtain ⟨-, -, htable, -⟩ := h; exact hs.of_same htable hrecord
    | tableWritten ho h => exact hs.written ho (by rw [h.eq.1]) hrecord
    | echoed | unechoed | density | dropped _ _ => exact hs.of_same (by simp) hrecord
    | _ => exact hs
  intro s u hs h
  exact (tableLaw_iff u).2 (hkept s u ((tableLaw_iff s).1 hs) h)

/-- The ranks formed depend on table and record alone (R44). -/
theorem State.formedRanks_congr {s u : State} (htable : u.table = s.table) (hrecord : u.record = s.record) :
    u.formedRanks = s.formedRanks := by
  have hcfg : u.cfg = s.cfg := by rw [State.cfg, State.cfg, hrecord]
  have hown : u.ownIndex = s.ownIndex := by rw [State.ownIndex, State.ownIndex, hcfg]
  have hsums (a : Fin 4) : u.rankSums a = s.rankSums a := by rw [State.rankSums, State.rankSums, htable, hcfg]
  have hrank (a : Fin 4) : u.formedRank a = s.formedRank a := by rw [State.formedRank, State.formedRank, hown, hsums]
  simp only [State.formedRanks, hrank]

/-- With an empty table the ranks formed are 4095, but 0 at an anchor's own index (R43, R47). -/
theorem State.formedRanks_of_empty {s : State} (h : s.table = Vector.replicate 32 none) (a : Fin 4) :
    s.formedRanks[a] = if s.ownIndex = some a then 0 else 4095 := by
  have hsums : s.rankSums a = [] := by
    have hnone : (Vector.replicate 32 (none : Option Neighbour)).toList.filterMap id = [] := by decide
    rw [State.rankSums, h, hnone]
    rfl
  rw [State.formedRanks_get, State.formedRank, hsums]
  rfl

theorem AtReset.ranks {s : State} (h : AtReset s) : s.ranks = Vector.replicate 4 4095 := by
  obtain ⟨-, -, -, -, -, -, -, hranks, -⟩ := h
  exact hranks

theorem AtReset.ownIndex {s : State} (h : AtReset s) : s.ownIndex = none := by
  obtain ⟨hrecord, -⟩ := h
  rw [State.ownIndex, State.cfg, hrecord]
  rfl

theorem vector4_ext {v w : Vector Rank 4} (h : ∀ a : Fin 4, v[a] = w[a]) : v = w :=
  Vector.ext fun i hi => h ⟨i, hi⟩

/-- At reset the ranks are those formed from the empty table (R43). -/
theorem AtReset.ranks_formed {s : State} (h : AtReset s) : s.ranks = s.formedRanks := by
  refine vector4_ext fun a => ?_
  rw [State.formedRanks_of_empty h.table, h.ownIndex, h.ranks]
  simp

theorem step_keeps_rankLaw : Kept RankLaw := by
  refine kept_with_start (fun s u _ hs h => ?_) (fun s h => h.ranks_formed) fun s r h _ => ?_
  · have hrecord := h.record
    have same (htable : u.table = s.table) (hranks : u.ranks = s.ranks) : u.ranks = u.formedRanks := by
      rw [hranks, State.formedRanks_congr htable hrecord, hs]
    cases h with
    | aside h => obtain ⟨-, -, htable, hranks, -⟩ := h; exact same htable hranks
    | tableWritten _ h => exact h.eq.2
    | echoed | unechoed | density | dropped _ _ => exact same (by simp) (by simp)
    | _ => exact same rfl rfl
  · refine vector4_ext fun a => ?_
    have htable : (s.acceptRecord r).table = Vector.replicate 32 none := h.table
    have hranks : (s.acceptRecord r).ranks[a] = (acceptedRanks r s.ranks)[a] := rfl
    have hown : (s.acceptRecord r).ownIndex = some a ↔ r.role = .anchor ∧ r.anchorIndex = a :=
      State.ownIndex_iff (s.acceptRecord r) a
    rw [State.formedRanks_of_empty htable, hranks, acceptedRanks_get, h.ranks]
    simp [hown, eq_comm]

/-- Settles O53: a slot written is followed by a refresh, which forms the ranks from the table as it stands. -/
theorem tableAndRanksAreKept : Obligations.TableAndRanksAreKept := ⟨step_keeps_tableLaw, step_keeps_rankLaw⟩

end Sys2Proof.Machine
end

section
namespace Sys2Proof.Machine

/-! ### Slots of own messages (R152, R157, R158) -/

/-- What a hold entry says of a slot: which one it names, its serial and its sender rank. -/
def Hold.claim (e : Hold) : Option (Fin 4 × Serial × Option Rank) :=
  e.slot.map fun k => (k, e.ident.serial, e.senderRank)

/-- What the hold place `i` says of a slot. -/
def State.claim (s : State) (i : Fin 16) : Option (Fin 4 × Serial × Option Rank) := s.hold[i].bind Hold.claim

theorem Hold.claim_eq_some {e : Hold} {k : Fin 4} {v : Serial} {r : Option Rank} :
    e.claim = some (k, v, r) ↔ e.slot = some k ∧ e.ident.serial = v ∧ e.senderRank = r := by
  simp [Hold.claim]

theorem State.claim_eq_some {s : State} {i : Fin 16} {k : Fin 4} {v : Serial} {r : Option Rank} :
    s.claim i = some (k, v, r) ↔ ∃ e, s.hold[i] = some e ∧ e.slot = some k ∧ e.ident.serial = v ∧ e.senderRank = r := by
  rw [State.claim, Option.bind_eq_some_iff]
  simp only [Hold.claim_eq_some]

/-- The slots' law place by place: a claim finds its slot PENDING, a PENDING slot has a claim, no two places claim one
slot. -/
def SlotsClaimed (s : State) : Prop :=
  (∀ i k v r, s.claim i = some (k, v, r) → r = none ∧ s.slots[k] = .pending v)
    ∧ (∀ k v, s.slots[k] = .pending v → ∃ i r, s.claim i = some (k, v, r))
    ∧ ∀ i j k v w r q, s.claim i = some (k, v, r) → s.claim j = some (k, w, q) → i = j

theorem slotLaw_iff (s : State) : SlotLaw s ↔ SlotsClaimed s := by
  simp only [SlotLaw, SlotsClaimed, State.claim_eq_some]
  constructor
  · rintro ⟨hpending, hnamed⟩
    refine ⟨?_, fun k v hk => ?_, ?_⟩
    · rintro i k v r ⟨e, he, hslot, rfl, rfl⟩
      exact hnamed e (mem_entries.2 ⟨i, he⟩) k hslot
    · obtain ⟨i, e, he, hslot, hserial, -⟩ := hpending k v hk
      exact ⟨i, _, e, he, hslot, hserial, rfl⟩
    · rintro i j k v w r q ⟨e, he, hslot, -⟩ ⟨f, hf, hslot', -⟩
      obtain ⟨-, hk⟩ := hnamed e (mem_entries.2 ⟨i, he⟩) k hslot
      obtain ⟨l, -, -, -, -, honly⟩ := hpending k _ hk
      rw [honly i e he hslot, honly j f hf hslot']
  · rintro ⟨hnamed, hpending, hapart⟩
    refine ⟨fun k v hk => ?_, fun e he k hslot => ?_⟩
    · obtain ⟨i, r, e, he, hslot, hserial, hrank⟩ := hpending k v hk
      exact ⟨i, e, he, hslot, hserial, fun j f hf hslot' =>
        hapart j i k _ _ _ _ ⟨f, hf, hslot', rfl, rfl⟩ ⟨e, he, hslot, rfl, rfl⟩⟩
    · obtain ⟨i, hi⟩ := mem_entries.1 he
      exact hnamed i k _ _ ⟨e, hi, hslot, rfl, rfl⟩

/-- The claims when one place is written. -/
theorem State.claim_setAt {s u : State} {i : Fin 16} {o : Option Hold} (hu : u.hold = setAt s.hold i o) (j : Fin 16) :
    u.claim j = if i = j then o.bind Hold.claim else s.claim j := by
  rw [State.claim, hu, setAt_get]
  split <;> rfl

/-- A place written with an entry that claims what stood there before leaves all claims. -/
theorem State.claim_setAt_same {s u : State} {i : Fin 16} {o : Option Hold} (hu : u.hold = setAt s.hold i o)
    (ho : o.bind Hold.claim = s.claim i) (j : Fin 16) : u.claim j = s.claim j := by
  rw [State.claim_setAt hu]
  split
  · next h => rw [ho, h]
  · rfl

theorem SlotsClaimed.of_same {s u : State} (h : SlotsClaimed s) (hclaim : ∀ i, u.claim i = s.claim i)
    (hslots : u.slots = s.slots) : SlotsClaimed u := by
  unfold SlotsClaimed at h ⊢
  simpa only [hclaim, hslots] using h

/-- The one claim of a slot goes as the slot becomes COMPLETE. -/
theorem SlotsClaimed.ended {s u : State} (h : SlotsClaimed s) {i : Fin 16} {k : Fin 4} {v : Serial} {r : Option Rank}
    (hi : s.claim i = some (k, v, r)) (hhold : u.hold = setAt s.hold i none) {w : Serial} {o : SlotOutcome} {n : Nat}
    (hslots : u.slots = setAt s.slots k (.complete w o n)) : SlotsClaimed u := by
  obtain ⟨hnamed, hpending, hapart⟩ := h
  have hclaim {j : Fin 16} {x : Fin 4 × Serial × Option Rank} : u.claim j = some x ↔ i ≠ j ∧ s.claim j = some x := by
    rw [State.claim_setAt hhold]
    split <;> simp_all
  refine ⟨fun j k' v' r' hj => ?_, fun k' v' hk' => ?_, fun j l k' v' w' r' q hj hl => ?_⟩
  · obtain ⟨hij, hj⟩ := hclaim.1 hj
    have hk : k ≠ k' := fun hk => hij (hapart i j k v v' r r' hi (hk ▸ hj))
    rw [hslots, setAt_get, if_neg hk]
    exact hnamed j k' v' r' hj
  · rw [hslots, setAt_get] at hk'
    split at hk'
    · cases hk'
    · next hk =>
      obtain ⟨j, q, hj⟩ := hpending k' v' hk'
      refine ⟨j, q, hclaim.2 ⟨fun hij => hk ?_, hj⟩⟩
      rw [← hij, hi] at hj
      cases hj
      rfl
  · exact hapart j l k' v' w' r' q (hclaim.1 hj).2 (hclaim.1 hl).2

/-- A free slot becomes PENDING as a place without a claim claims it. -/
theorem SlotsClaimed.given {s u : State} (h : SlotsClaimed s) {i : Fin 16} {k : Fin 4} {e : Hold}
    (hi : s.hold[i] = none) (hk : s.slots[k] = .free) (he : e.claim = some (k, e.ident.serial, none))
    (hhold : u.hold = setAt s.hold i (some e)) (hslots : u.slots = setAt s.slots k (.pending e.ident.serial)) :
    SlotsClaimed u := by
  obtain ⟨hnamed, hpending, hapart⟩ := h
  have hfree {j : Fin 16} {v : Serial} {r : Option Rank} : s.claim j ≠ some (k, v, r) := fun hj => by
    obtain ⟨-, hpend⟩ := hnamed j k v r hj
    rw [hk] at hpend
    cases hpend
  have hclaim {j : Fin 16} {k' : Fin 4} {v : Serial} {r : Option Rank} (hj : u.claim j = some (k', v, r)) :
      (i = j ∧ k = k' ∧ e.ident.serial = v ∧ r = none) ∨ (i ≠ j ∧ k ≠ k' ∧ s.claim j = some (k', v, r)) := by
    rw [State.claim_setAt hhold] at hj
    split at hj
    · next hij =>
      rw [Option.bind_some, he] at hj
      cases hj
      exact .inl ⟨hij, rfl, rfl, rfl⟩
    · next hij => exact .inr ⟨hij, fun hk' => hfree (hk' ▸ hj), hj⟩
  refine ⟨fun j k' v r hj => ?_, fun k' v hk' => ?_, fun j l k' v w r q hj hl => ?_⟩
  · rw [hslots, setAt_get]
    rcases hclaim hj with ⟨-, rfl, rfl, rfl⟩ | ⟨-, hne, hj⟩
    · exact ⟨rfl, if_pos rfl⟩
    · rw [if_neg hne]
      exact hnamed j k' v r hj
  · rw [hslots, setAt_get] at hk'
    split at hk'
    · next hkk =>
      cases hk'
      exact ⟨i, none, by rw [State.claim_setAt hhold, if_pos rfl, Option.bind_some, he, hkk]⟩
    · obtain ⟨j, r, hj⟩ := hpending k' v hk'
      have hij : i ≠ j := fun hij => by simp [State.claim, ← hij, hi] at hj
      exact ⟨j, r, by rw [State.claim_setAt hhold, if_neg hij, hj]⟩
  · rcases hclaim hj with ⟨rfl, hk', -⟩ | ⟨-, hne, hj⟩ <;> rcases hclaim hl with ⟨rfl, hk'', -⟩ | ⟨-, hne', hl⟩
    · rfl
    · exact absurd hk' hne'
    · exact absurd hk'' hne
    · exact hapart j l k' v w r q hj hl

/-- Reading a slot leaves a PENDING one and makes none PENDING (R158). -/
theorem Slot.read_pending_iff (n : Nat) (x : Slot) (v : Serial) :
    (Slot.read n x).2.1 = .pending v ↔ x = .pending v := by
  cases x <;> simp [Slot.read]

theorem SlotsClaimed.read {s : State} (h : SlotsClaimed s) (k : Fin 4) (n : Nat) :
    SlotsClaimed { s with slots := setAt s.slots k (Slot.read n s.slots[k]).2.1 } := by
  have hslot (k' : Fin 4) (v : Serial) :
      (setAt s.slots k (Slot.read n s.slots[k]).2.1)[k'] = .pending v ↔ s.slots[k'] = .pending v := by
    rw [setAt_get]
    split
    · next hk => rw [Slot.read_pending_iff, hk]
    · rfl
  obtain ⟨hnamed, hpending, hapart⟩ := h
  refine ⟨fun i k' v r hi => ?_, fun k' v hk' => hpending k' v ((hslot k' v).1 hk'), hapart⟩
  obtain ⟨hr, hk'⟩ := hnamed i k' v r hi
  exact ⟨hr, (hslot k' v).2 hk'⟩

/-- Every ending but STALE_RANK has an outcome for the slot of an own message (R157). -/
theorem Ending.slotOutcome_of_ne {k : Ending} (h : k ≠ .staleRank) : ∃ o, k.slotOutcome = some o := by
  cases k with
  | staleRank => exact absurd rfl h
  | _ => exact ⟨_, rfl⟩

/-- An entry dropped ends the slot it names, if it names one. -/
theorem SlotsClaimed.dropped {s u : State} (h : SlotsClaimed s) {i : Fin 16} {e : Hold} {k : Ending}
    (he : s.hold[i] = some e) (hk : k = .staleRank → e.senderRank ≠ none) (hhold : u.hold = setAt s.hold i none)
    (hslots : u.slots = (s.completeSlot e k).slots) : SlotsClaimed u := by
  have hclaim : s.claim i = e.claim := by rw [State.claim, he, Option.bind_some]
  rw [State.completeSlot_slots] at hslots
  cases hslot : e.slot with
  | none =>
    rw [hslot] at hslots
    refine h.of_same (State.claim_setAt_same hhold ?_) hslots
    rw [hclaim, Hold.claim, hslot]
    rfl
  | some q =>
    have hi : s.claim i = some (q, e.ident.serial, e.senderRank) := by
      rw [hclaim]
      exact Hold.claim_eq_some.2 ⟨hslot, rfl, rfl⟩
    obtain ⟨hnone, -⟩ := h.1 i q _ _ hi
    obtain ⟨o, ho⟩ := Ending.slotOutcome_of_ne fun hstale => hk hstale hnone
    rw [hslot, ho] at hslots
    exact h.ended hi hhold hslots

/-- At reset no slot is claimed, and every slot is FREE (R152). -/
theorem slotsClaimed_resetBlocks (s : State) : SlotsClaimed s.resetBlocks := by
  refine ⟨fun i k v r hi => ?_, fun k v hk => ?_, fun i j k v w r q hi => ?_⟩
  · simp [State.claim, State.resetBlocks, State.reset] at hi
  · simp [State.resetBlocks, State.reset] at hk
  · simp [State.claim, State.resetBlocks, State.reset] at hi

theorem step_keeps_slotsClaimed : Kept SlotsClaimed := by
  refine kept_of_moves (fun s u hs h => ?_) (fun s _ => slotsClaimed_resetBlocks s) fun s r hs => hs
  · have same (hhold : u.hold = s.hold) (hslots : u.slots = s.slots) : SlotsClaimed u :=
      hs.of_same (fun i => by rw [State.claim, State.claim, hhold]) hslots
    cases h with
    | aside h =>
      obtain ⟨-, -, -, -, hhold, -, -, -, -, -, -, -, -, hslots, -⟩ := h
      exact same hhold hslots
    | tableWritten _ h => exact same (by rw [h.eq.1]) (by rw [h.eq.1])
    | echoed | unechoed | density => exact same (by simp) (by simp)
    | @restated i e f he hf =>
      refine hs.of_same (State.claim_setAt_same rfl ?_) rfl
      rw [hf, State.claim, he]
      rfl
    | @dropped i e k he hk =>
      exact hs.dropped he hk (by simp) (by simp only [State.completeSlot_slots])
    | @held i e p h hslot =>
      refine hs.of_same (State.claim_setAt_same rfl ?_) rfl
      rw [Option.bind_some, Hold.claim, hslot, State.claim, h.place]
      rfl
    | submitted p h hslot hrank hk =>
      exact hs.given h.place hk (Hold.claim_eq_some.2 ⟨hslot, rfl, hrank⟩) rfl rfl
    | slotRead k => exact hs.read k _
    | _ => exact same rfl rfl

/-- Settles O55: the claims of the hold places on the slots are followed move by move. -/
theorem slotLawIsKept : Obligations.SlotLawIsKept := fun s u hs h =>
  (slotLaw_iff u).2 (step_keeps_slotsClaimed s u ((slotLaw_iff s).1 hs) h)

end Sys2Proof.Machine
end

section
namespace Sys2Proof.Machine

/-! ### Counters, ring, HUSH queue and tally (R111, R146, R179) -/

/-- The ranges of the twelve counters (R179). -/
def Stats.InRange (c : Stats) : Prop :=
  c.framesGood ≤ 9999 ∧ c.framesBad ≤ 255 ∧ c.relayed ≤ 65535 ∧ c.suppressed ≤ 65535 ∧ c.hushed ≤ 65535
    ∧ c.abandoned ≤ 65535 ∧ c.droppedNoBuffer ≤ 65535 ∧ c.droppedOther ≤ 65535 ∧ c.deliveryOverflow ≤ 255
    ∧ c.tableRefused ≤ 255 ∧ c.hushLost ≤ 255 ∧ c.ownEchoOrStale ≤ 255

/-- The ranges of a tally (R186). -/
def Tally.InRange (y : Tally) : Prop := y.heard ≤ 65535 ∧ y.missing ≤ 65535 ∧ y.marginAvg ≤ 63

theorem countLaw_iff (s : State) : CountLaw s ↔
    s.ring.length ≤ 8 ∧ s.hushQueue.length ≤ 4 ∧ s.stats.InRange ∧ ∀ y, s.tally = some y → y.InRange := by
  simp only [CountLaw, Stats.InRange, Tally.InRange, and_assoc]

theorem satInc_le (limit n : Nat) : satInc limit n ≤ limit := Nat.min_le_left _ _

theorem satAdd_le (limit n d : Nat) : satAdd limit n d ≤ limit := Nat.min_le_left _ _

theorem Stats.zero_inRange : Stats.zero.InRange := by simp [Stats.InRange, Stats.zero]

/-- Every counter saturates at its limit, frames_good wraps below 10000 (R179). -/
theorem CountsOnce.inRange {f : Stats → Stats} (hf : CountsOnce f) {c : Stats} (h : c.InRange) : (f c).InRange := by
  unfold Stats.InRange at h ⊢
  rcases hf with rfl | rfl | rfl | rfl | rfl | rfl | rfl | rfl | rfl | rfl | rfl | rfl <;>
  · simp only [Stats.addGood, Stats.addBad, Stats.addRelayed, Stats.addSuppressed, Stats.addHushed, Stats.addAbandoned,
      Stats.addNoBuffer, Stats.addOther, Stats.addOverflow, Stats.addRefused, Stats.addHushLost, Stats.addOwn, satInc]
    omega

/-- A SURVEY heard keeps the tally's ranges (R177). -/
theorem tallied_inRange {o : Option Tally} (ho : ∀ y, o = some y → y.InRange) (h : SurveyHeader) {margin : Nat}
    (hm : margin ≤ 63) : (Machine.tallied o h margin).InRange := by
  have hfirst : Tally.InRange ⟨h.sender, 1, h.sequence, h.sequence, 0, margin⟩ := ⟨by simp, by simp, hm⟩
  unfold Machine.tallied
  split
  · next y =>
    obtain ⟨-, -, hy⟩ := ho y rfl
    split
    · exact ⟨satInc_le _ _, satAdd_le _ _ _, smoothed_le_63 hy hm⟩
    · exact hfirst
  · exact hfirst

/-- The counters' law where ring, HUSH queue, counters and tally are as they were. -/
theorem CountLaw.of_same {s u : State} (h : CountLaw s) (hring : u.ring = s.ring) (hqueue : u.hushQueue = s.hushQueue)
    (hstats : u.stats = s.stats) (htally : u.tally = s.tally) : CountLaw u := by
  unfold CountLaw at h ⊢
  rwa [hring, hqueue, hstats, htally]

/-- At reset every counter is 0 and nothing is queued (R179). -/
theorem countLaw_resetBlocks (s : State) : CountLaw s.resetBlocks :=
  (countLaw_iff _).2 ⟨by simp [State.resetBlocks, State.reset], by simp [State.resetBlocks, State.reset],
    Stats.zero_inRange, nofun⟩

theorem step_keeps_countLaw : Kept CountLaw := by
  refine kept_of_moves (fun s u hs h => ?_) (fun s _ => countLaw_resetBlocks s) fun s r hs => hs
  · obtain ⟨hring, hqueue, hstats, htally⟩ := (countLaw_iff s).1 hs
    cases h with
    | aside h =>
      obtain ⟨-, -, -, -, -, hqueue, -, -, -, -, -, -, hring, -, htally, hstats⟩ := h
      exact hs.of_same hring hqueue hstats htally
    | tableWritten _ h => rw [h.eq.1]; exact hs
    | echoed | unechoed | density | dropped _ _ => exact hs.of_same (by simp) (by simp) (by simp) (by simp)
    | counted hf => exact (countLaw_iff _).2 ⟨hring, hqueue, hf.inRange hstats, htally⟩
    | statsCleared => exact (countLaw_iff _).2 ⟨hring, hqueue, Stats.zero_inRange, htally⟩
    | tallied h levels =>
      refine (countLaw_iff _).2 ⟨hring, hqueue, hstats, fun y hy => ?_⟩
      cases hy
      exact tallied_inRange htally h (marginOf_le levels)
    | tallyCleared => exact (countLaw_iff _).2 ⟨hring, hqueue, hstats, nofun⟩
    | delivered p hroom _ _ _ => exact (countLaw_iff _).2 ⟨by simpa using hroom, hqueue, hstats, htally⟩
    | released hr =>
      rw [hr, List.length_cons] at hring
      exact (countLaw_iff _).2 ⟨by simp only; omega, hqueue, hstats, htally⟩
    | hushQueued hq => exact (countLaw_iff _).2 ⟨hring, hq hqueue, hstats, htally⟩
    | _ => exact hs

/-! ### Power and rate control (R132, R136 to R138, R142) -/

/-- The law of power and rate control but for the start-up law. -/
def AdaptKept (s : State) : Prop :=
  s.cfg.powerFloor ≤ s.power ∧ s.power ≤ s.cfg.powerCeiling ∧ rateCode s.rate ≤ rateCode s.cfg.maxRate
    ∧ s.echoed < s.cfg.upshiftAfter ∧ s.unechoed < s.cfg.downshiftAfter ∧ (s.echoed = 0 ∨ s.unechoed = 0)

theorem AdaptKept.of_same {s u : State} (h : AdaptKept s) (hrecord : u.record = s.record) (hpower : u.power = s.power)
    (hrate : u.rate = s.rate) (hechoed : u.echoed = s.echoed) (hunechoed : u.unechoed = s.unechoed) : AdaptKept u := by
  unfold AdaptKept State.cfg at h ⊢
  rwa [hrecord, hpower, hrate, hechoed, hunechoed]

theorem rateCode_rateDown_le (r : Rate) : rateCode (rateDown r) ≤ rateCode r := by
  cases r <;> decide

theorem AdaptKept.echoedOutcome {s : State} (h : AdaptKept s) (hup : 0 < s.cfg.upshiftAfter) :
    AdaptKept s.echoedOutcome := by
  obtain ⟨hfloor, hceiling, hrate, -, hunechoed, -⟩ := h
  obtain ⟨hzero, hstreak, hlevel⟩ := s.echoedOutcome_streaks
  have hcfg : s.echoedOutcome.cfg = s.cfg := by simp [State.cfg]
  have hpower : s.echoedOutcome.power = s.power := by simp
  rw [AdaptKept, hcfg, hpower, hzero, hstreak, hlevel]
  refine ⟨hfloor, hceiling, ?_, ?_, by omega, .inr rfl⟩
  · split
    · next hs => rw [rateCode_rateUp hs.2]; omega
    · exact hrate
  · split <;> omega

theorem AdaptKept.unechoedOutcome {s : State} (h : AdaptKept s) (hdown : 0 < s.cfg.downshiftAfter) :
    AdaptKept s.unechoedOutcome := by
  obtain ⟨hfloor, hceiling, hrate, hechoed, -, -⟩ := h
  obtain ⟨hzero, hstreak, hlevel⟩ := s.unechoedOutcome_streaks
  have hcfg : s.unechoedOutcome.cfg = s.cfg := by simp [State.cfg]
  have hpower : s.unechoedOutcome.power = s.power := by simp
  rw [AdaptKept, hcfg, hpower, hzero, hstreak, hlevel]
  refine ⟨hfloor, hceiling, ?_, by omega, ?_, .inl rfl⟩
  · split
    · exact (rateCode_rateDown_le s.rate).trans hrate
    · exact hrate
  · split <;> omega

theorem AdaptKept.densityStep {s : State} (h : AdaptKept s) (hsound : s.cfg.powerFloor ≤ s.cfg.powerCeiling) :
    AdaptKept s.densityStep := by
  have hrange : s.cfg.powerFloor ≤ s.densityStep.power ∧ s.densityStep.power ≤ s.cfg.powerCeiling := by
    obtain ⟨hfloor, hceiling, -⟩ := h
    unfold State.densityStep
    split
    · split
      · exact ⟨Nat.le_max_left _ _, by simp only; omega⟩
      · split
        · exact ⟨by simp only; omega, Nat.min_le_left _ _⟩
        · exact ⟨hfloor, hceiling⟩
    · exact ⟨hfloor, hceiling⟩
  have hcfg : s.densityStep.cfg = s.cfg := by simp [State.cfg]
  obtain ⟨-, -, hrest⟩ := h
  rw [AdaptKept, hcfg]
  exact ⟨hrange.1, hrange.2, by simpa using hrest⟩

theorem AtReset.adaptKept {s : State} (h : AtReset s) : AdaptKept s := by
  obtain ⟨hrecord, -, -, -, -, -, -, -, -, -, -, -, -, -, -, -, hpower, hrate, hechoed, hunechoed, -⟩ := h
  rw [AdaptKept, State.cfg, hrecord, hpower, hrate, hechoed, hunechoed]
  decide

theorem step_keeps_adaptLaw : Kept AdaptLaw :=
  kept_with_start (P := AdaptKept) (fun s u hsound hs h => by
    obtain ⟨hpower, hup, hdown⟩ := hsound
    cases h with
    | aside h =>
      obtain ⟨hrecord, -, -, -, -, -, -, -, hpower, hrate, hechoed, hunechoed, -⟩ := h
      exact hs.of_same hrecord hpower hrate hechoed hunechoed
    | tableWritten _ h => rw [h.eq.1]; exact hs
    | echoed => exact hs.echoedOutcome hup
    | unechoed => exact hs.unechoedOutcome hdown
    | density => exact hs.densityStep hpower
    | dropped _ _ => exact hs.of_same (by simp) (by simp) (by simp) (by simp) (by simp)
    | _ => exact hs)
  (fun s h => h.adaptKept)
  fun s r _ hr => by
    obtain ⟨hpower, hup, hdown⟩ := hr.sound
    obtain ⟨-, -, -, -, -, -, -, -, -, -, -, -, -, -, hrate, -⟩ := hr
    exact ⟨hpower, Nat.le_refl _, hrate, hup, hdown, .inl rfl⟩

/-! ### The jitter generator (R20) -/

/-- Only zero steps to zero: the feedback bit goes where the shift leaves a 0. -/
theorem jitterStep_ne_zero {x : BitVec 16} (h : x ≠ 0) : jitterStep x ≠ 0 := by
  intro hzero
  have hbit (i : Nat) : (jitterStep x).getLsbD i = false := by rw [hzero]; simp
  unfold jitterStep at hbit
  split at hbit
  · have htop := hbit 15
    simp at htop
  · next hlow =>
    refine h (BitVec.eq_of_getLsbD_eq fun i _ => ?_)
    cases i with
    | zero => simpa using hlow
    | succ i => simpa [Nat.add_comm] using hbit i

theorem step_keeps_jitterLaw : Kept JitterLaw :=
  kept_with_start (P := fun s => s.jitter ≠ 0) (fun s u _ hs h => by
    cases h with
    | aside h => obtain ⟨-, hjitter, -⟩ := h; rwa [hjitter]
    | tableWritten _ h => rw [h.eq.1]; exact hs
    | drawn => exact jitterStep_ne_zero hs
    | echoed | unechoed | density | dropped _ _ => simpa using hs
    | _ => exact hs)
  (fun s h => by
    obtain ⟨-, -, -, -, -, hjitter, -⟩ := h
    rw [hjitter]
    decide)
  fun s r _ hr => by
    obtain ⟨hnode, -⟩ := hr
    refine jitterStep_ne_zero (x := r.node) fun hzero => ?_
    rw [hzero] at hnode
    exact absurd hnode (by decide)

/-- Settles O56: every move keeps the counters' ranges; of power, rate and jitter the moves are five, and each record
accepted starts them in range. -/
theorem boundsAndJitterAreKept : Obligations.BoundsAndJitterAreKept :=
  ⟨⟨step_keeps_countLaw, step_keeps_adaptLaw⟩, step_keeps_jitterLaw⟩

end Sys2Proof.Machine
end

section
namespace Sys2Proof.Machine

/-! ### What leaves the attempt alone

Most events reach no owner in attempt: entries in HOLDING come, entries neither ASSESSING nor SENDING go or wait again,
the HUSH queue grows at its tail. -/

/-- An entry that is in no attempt (R72). -/
def Hold.Rests (e : Hold) : Prop := e.state ≠ .assessing ∧ e.state ≠ .sending

/-- A hold place from one event to the next off the air: the same, or an entry at rest goes or waits again, or one in
HOLDING comes. -/
def PlaceKept (cfg : Record) (o o' : Option Hold) : Prop :=
  o' = o ∨ (∀ e, o = some e → e.Rests) ∧ ∀ f, o' = some f → f.state = .holding ∧ f.attempts ≤ cfg.retryLimit
    ∧ (f.defers = 0 ∨ ∃ e, o = some e ∧ f.defers = e.defers)

/-- From `s` to `u` no owner in attempt is reached. -/
structure OffAir (s u : State) : Prop where
  tx : u.tx = s.tx
  station : u.station = s.station
  record : u.record = s.record
  beacon : u.beacon = s.beacon
  burst : u.burst = s.burst
  hush : (u.hushQueue = s.hushQueue ∧ u.hushHead = s.hushHead)
    ∨ u.hushQueue ≠ [] ∧ u.hushHead = if s.hushQueue = [] then .standing else s.hushHead
  hold : ∀ i : Fin 16, PlaceKept s.cfg s.hold[i] u.hold[i]

theorem Hold.Rests.of_state {e : Hold} (h : e.state = .holding ∨ e.state = .ready ∨ e.state = .awaitingEcho) :
    e.Rests := by
  rcases h with h | h | h <;> simp [Hold.Rests, h]

theorem PlaceKept.trans {cfg : Record} {o v o' : Option Hold} (h : PlaceKept cfg o v) (h' : PlaceKept cfg v o') :
    PlaceKept cfg o o' := by
  rcases h with rfl | ⟨hrests, hnew⟩
  · exact h'
  · rcases h' with rfl | ⟨-, hnew'⟩
    · exact .inr ⟨hrests, hnew⟩
    · refine .inr ⟨hrests, fun f hf => ?_⟩
      obtain ⟨hstate, hattempts, hdefers⟩ := hnew' f hf
      refine ⟨hstate, hattempts, ?_⟩
      rcases hdefers with hdefers | ⟨e, he, hdefers⟩
      · exact .inl hdefers
      · rw [hdefers]
        exact (hnew e he).2.2

/-- An operation that reaches neither transmitter nor owners' records. -/
theorem OffAir.of_frame {s u : State} (h : u.tx = s.tx ∧ u.station = s.station ∧ u.record = s.record
    ∧ u.beacon = s.beacon ∧ u.burst = s.burst ∧ u.hushQueue = s.hushQueue ∧ u.hushHead = s.hushHead
    ∧ u.hold = s.hold) : OffAir s u := by
  obtain ⟨htx, hstation, hrecord, hbeacon, hburst, hqueue, hhead, hhold⟩ := h
  exact ⟨htx, hstation, hrecord, hbeacon, hburst, .inl ⟨hqueue, hhead⟩, fun i => .inl (by rw [hhold])⟩

theorem OffAir.refl (s : State) : OffAir s s := .of_frame ⟨rfl, rfl, rfl, rfl, rfl, rfl, rfl, rfl⟩

theorem OffAir.trans {s v u : State} (h : OffAir s v) (h' : OffAir v u) : OffAir s u where
  tx := h'.tx.trans h.tx
  station := h'.station.trans h.station
  record := h'.record.trans h.record
  beacon := h'.beacon.trans h.beacon
  burst := h'.burst.trans h.burst
  hush := by
    rcases h.hush with ⟨hqueue, hhead⟩ | ⟨hqueue, hhead⟩
    · rw [← hqueue, ← hhead]
      exact h'.hush
    · rcases h'.hush with ⟨hqueue', hhead'⟩ | ⟨hqueue', hhead'⟩
      · exact .inr ⟨hqueue' ▸ hqueue, hhead'.trans hhead⟩
      · exact .inr ⟨hqueue', by rw [hhead', if_neg hqueue, hhead]⟩
  hold i := (h.hold i).trans (by rw [State.cfg, ← h.record]; exact h'.hold i)

theorem Background.offAir {s u : State} (h : Background s u) : OffAir s u := by
  rw [h]
  exact .of_frame ⟨rfl, rfl, rfl, rfl, rfl, rfl, rfl, rfl⟩

/-- A hold place written off the air. -/
theorem OffAir.of_place {s u : State} (i : Fin 16) {o : Option Hold} (h : u.tx = s.tx ∧ u.station = s.station
    ∧ u.record = s.record ∧ u.beacon = s.beacon ∧ u.burst = s.burst ∧ u.hushQueue = s.hushQueue
    ∧ u.hushHead = s.hushHead ∧ u.hold = setAt s.hold i o) (ho : PlaceKept s.cfg s.hold[i] o) : OffAir s u := by
  obtain ⟨htx, hstation, hrecord, hbeacon, hburst, hqueue, hhead, hhold⟩ := h
  refine ⟨htx, hstation, hrecord, hbeacon, hburst, .inl ⟨hqueue, hhead⟩, fun j => ?_⟩
  rw [hhold, setAt_get]
  split
  · next hij => exact hij ▸ ho
  · exact .inl rfl

/-! ### The operations off the air -/

/-- An entry at rest is removed (R75). -/
theorem offAir_removeHold {s : State} {i : Fin 16} (k : Ending) (h : ∀ e, s.hold[i] = some e → e.Rests) :
    OffAir s (s.removeHold i k) := by
  cases he : s.hold[i] with
  | none => rw [State.removeHold_none he]; exact .refl s
  | some e =>
    obtain ⟨hhold, -⟩ := State.removeHold_some (k := k) he
    exact .of_place i (o := none) (by simp [hhold]) (.inr ⟨h, fun f hf => by cases hf⟩)

theorem offAir_offerDelivery (s : State) (h : CarryHeader) (p : List Byte) : OffAir s (s.offerDelivery h p) :=
  .of_frame (by simp)

theorem offAir_insertSeen (s : State) (x : Seen) : OffAir s (s.insertSeen x) :=
  .of_frame ⟨rfl, rfl, rfl, rfl, rfl, rfl, rfl, rfl⟩

theorem offAir_updateSeen (s : State) (k : Ident) (f : Seen → Seen) : OffAir s (s.updateSeen k f) :=
  .of_frame ⟨rfl, rfl, rfl, rfl, rfl, rfl, rfl, rfl⟩

theorem offAir_count (s : State) (f : Stats → Stats) : OffAir s (s.count f) :=
  .of_frame ⟨rfl, rfl, rfl, rfl, rfl, rfl, rfl, rfl⟩

/-- The HUSH queue grows at its tail; the head of an empty queue is the new entry, STANDING (R111, R112). -/
theorem offAir_offerHush (s : State) (k : Ident) : OffAir s (s.offerHush k) := by
  unfold State.offerHush
  split
  · exact ⟨rfl, rfl, rfl, rfl, rfl, .inr ⟨by simp, rfl⟩, fun _ => .inl rfl⟩
  · exact offAir_count s _

theorem offAir_anchorFirstCopy (s : State) (h : CarryHeader) (p : List Byte) : OffAir s (s.anchorFirstCopy h p) := by
  unfold State.anchorFirstCopy
  split
  · exact ((offAir_offerDelivery s h p).trans (offAir_insertSeen _ _)).trans (offAir_offerHush _ _)
  · exact offAir_offerDelivery s h p

/-- A first copy held is a new entry in HOLDING (R82). -/
theorem offAir_applyArrival (s : State) (h : CarryHeader) (p : List Byte) :
    OffAir s (s.applyArrival h p (s.arrivalOf h)) := by
  cases ha : s.arrivalOf h with
  | held =>
    obtain ⟨hindex, -⟩ := State.arrivalOf_held ha
    obtain ⟨i, hi⟩ := Option.ne_none_iff_exists'.1 hindex
    rw [State.applyArrival_held p hi ha]
    refine .of_place i (o := some (s.relayEntry h)) ⟨rfl, rfl, rfl, rfl, rfl, rfl, rfl, rfl⟩ (.inr ⟨fun e he => ?_, ?_⟩)
    · rw [State.freeIndex_some hi] at he
      cases he
    · intro f hf
      cases hf
      exact ⟨rfl, Nat.zero_le _, .inl rfl⟩
  | addressedHere => exact .refl s
  | _ => exact offAir_count s _

theorem offAir_relayFirstCopy (s : State) (h : CarryHeader) (p : List Byte) : OffAir s (s.relayFirstCopy h p) := by
  have happlied := offAir_applyArrival s h p
  unfold State.relayFirstCopy
  dsimp only
  split
  · exact (happlied.trans (offAir_offerDelivery _ h p)).trans (offAir_insertSeen _ _)
  · exact happlied.trans (offAir_insertSeen _ _)

/-- A copy ends entries in HOLDING, READY and AWAITING_ECHO alone (R86, R87, R89). -/
theorem offAir_judgeCopy (s : State) (i : Fin 16) (rank : Option Rank) (copies : Nat) :
    OffAir s (s.judgeCopy i rank copies) := by
  unfold State.judgeCopy
  cases he : s.hold[i] with
  | none => exact .refl s
  | some e =>
    have removed (k : Ending) (hr : e.Rests) : OffAir s (s.removeHold i k) :=
      offAir_removeHold k fun f hf => by rw [he] at hf; cases hf; exact hr
    dsimp only
    cases hstate : e.state with
    | assessing => exact .refl s
    | sending => exact .refl s
    | awaitingEcho =>
      dsimp only
      split
      · exact removed _ (.of_state (.inr (.inr hstate)))
      · exact .refl s
    | holding | ready =>
      have hrests : e.Rests := .of_state (by simp [hstate])
      dsimp only
      split
      · split
        · exact removed _ hrests
        · exact .refl s
      · split
        · exact removed _ hrests
        · exact .refl s

/-- A HUSH ends entries in HOLDING, READY and AWAITING_ECHO alone (R88, R89). -/
theorem offAir_judgeHush (s : State) (i : Fin 16) : OffAir s (s.judgeHush i) := by
  unfold State.judgeHush
  cases he : s.hold[i] with
  | none => exact .refl s
  | some e =>
    have removed (k : Ending) (hr : e.Rests) : OffAir s (s.removeHold i k) :=
      offAir_removeHold k fun f hf => by rw [he] at hf; cases hf; exact hr
    dsimp only
    cases hstate : e.state with
    | assessing | sending => exact .refl s
    | holding | ready | awaitingEcho => exact removed _ (.of_state (by simp [hstate]))

theorem offAir_takeCopy (s : State) (e : Seen) (h : CarryHeader) : OffAir s (s.takeCopy e h) := by
  have hcounted := offAir_updateSeen s e.ident (Seen.heardCopy (carryGoal h) (carryRank h))
  unfold State.takeCopy
  dsimp only
  split
  · split
    · split
      · exact hcounted.trans (offAir_judgeCopy ..)
      · exact hcounted
    · split
      · exact (hcounted.trans (offAir_updateSeen _ e.ident _)).trans (offAir_offerHush _ _)
      · exact hcounted
    all_goals exact hcounted
  · exact hcounted

theorem offAir_takeCarry (s : State) (h : CarryHeader) (p : List Byte) : OffAir s (s.takeCarry h p) := by
  unfold State.takeCarry
  split
  · exact offAir_takeCopy s _ h
  · split
    · exact offAir_count s _
    · split
      · exact offAir_anchorFirstCopy s h p
      · exact offAir_relayFirstCopy s h p

theorem offAir_takeHush (s : State) (h : HushHeader) : OffAir s (s.takeHush h) := by
  unfold State.takeHush
  split
  · split
    · split
      · exact offAir_judgeHush s _
      · exact .refl s
    · exact .refl s
  · exact offAir_insertSeen s _

theorem offAir_takeGood (s : State) : OffAir s s.takeGood := .of_frame ⟨rfl, rfl, rfl, rfl, rfl, rfl, rfl, rfl⟩

theorem offAir_takeMargin (s : State) (sender : Address) (margin : Nat) : OffAir s (s.takeMargin sender margin) :=
  .of_frame (by simp)

theorem offAir_takeBeacon (s : State) (h : BeaconHeader) (margin : Nat) : OffAir s (s.takeBeacon h margin) :=
  .of_frame (by simp)

theorem offAir_takeSurvey (s : State) (h : SurveyHeader) (margin : Nat) : OffAir s (s.takeSurvey h margin) :=
  .of_frame ⟨rfl, rfl, rfl, rfl, rfl, rfl, rfl, rfl⟩

theorem offAir_missBeacon (s : State) (i : Fin 32) (n : Neighbour) : OffAir s (s.missBeacon i n) := .of_frame (by simp)

/-- An entry whose echo does not come waits for another attempt, or goes (R98). -/
theorem offAir_expireEcho {s : State} {i : Fin 16} {e : Hold} (he : s.hold[i] = some e)
    (hstate : e.state = .awaitingEcho) :
    OffAir s (s.expireEcho i e) := by
  have hrests : e.Rests := .of_state (.inr (.inr hstate))
  have houtcome : OffAir s s.unechoedOutcome := .of_frame (by simp)
  unfold State.expireEcho
  dsimp only
  split
  · next hmore =>
    refine .of_place i (o := some _) (by simp; rfl) (.inr ⟨fun f hf => ?_, fun f hf => ?_⟩)
    · rw [he] at hf
      cases hf
      exact hrests
    · cases hf
      exact ⟨rfl, Nat.le_of_lt_succ hmore, .inr ⟨e, he, rfl⟩⟩
  · refine houtcome.trans (offAir_removeHold _ fun f hf => ?_)
    have hsame : s.unechoedOutcome.hold = s.hold := by simp
    rw [hsame, he] at hf
    cases hf
    exact hrests

/-- An accepted SUBMIT is a new entry in HOLDING (R156). -/
theorem offAir_acceptSubmit {s : State} {d g : Byte} {dest : Address} {p : List Byte}
    (h : s.submitRefusal d g dest p.length = none) (goal : Goal) (hops : Byte) :
    OffAir s (s.acceptSubmit goal dest hops p) := by
  obtain ⟨-, ⟨k, hslot⟩, ⟨i, hindex⟩, hroom⟩ := State.submitRefusal_found h
  rw [State.acceptSubmit_eq goal dest hops p hslot hindex hroom]
  refine .of_place i (o := some (s.submitEntry k goal dest hops p.length)) ⟨rfl, rfl, rfl, rfl, rfl, rfl, rfl, rfl⟩
    (.inr ⟨fun e he => ?_, fun f hf => ?_⟩)
  · rw [State.freeIndex_some hindex] at he
    cases he
  · cases hf
    exact ⟨rfl, Nat.zero_le _, .inl rfl⟩

end Sys2Proof.Machine
end

section
namespace Sys2Proof.Machine

/-! ### A request is granted at once (R15) -/

/-- The owner's request stands (R15). -/
def State.Stands (s : State) : Owner → Prop
  | .beacon => ∃ r, s.beacon = .due r
  | .hush => s.hushQueue ≠ [] ∧ s.hushHead = .standing
  | .hold i => ∃ e, s.hold[i] = some e ∧ e.state = .ready
  | .survey => s.burst = .due

/-- The owner's record is as it was. -/
def SameRecord (s u : State) : Owner → Prop
  | .beacon => u.beacon = s.beacon
  | .hush => u.hushHead = s.hushHead
  | .hold i => u.hold[i] = s.hold[i]
  | .survey => u.burst = s.burst

theorem State.nextRequest_none_iff (s : State) : s.nextRequest = none ↔ ∀ o, ¬s.Stands o := by
  rw [s.nextRequest_eq_none_iff]
  constructor
  · rintro ⟨hbeacon, hhush, hready, hsurvey⟩ o ho
    cases o with
    | beacon => exact ho.elim hbeacon
    | hush => exact hhush ho
    | hold i => exact ho.elim fun e he => hready i e he.1 he.2
    | survey => exact hsurvey ho
  · exact fun h => ⟨fun r hr => h .beacon ⟨r, hr⟩, h .hush, fun i e he hr => h (.hold i) ⟨e, he, hr⟩, h .survey⟩

theorem State.nextRequest_some {s : State} {o : Owner} (h : s.nextRequest = some o) : s.Stands o := by
  have hstands := State.nextRequest_stands h
  cases o <;> exact hstands

theorem SameRecord.trans {s v u : State} {o : Owner} (h : SameRecord s v o) (h' : SameRecord v u o) :
    SameRecord s u o := by
  cases o <;> exact Eq.trans h' h

theorem SameRecord.stands {s u : State} {o : Owner} (h : SameRecord s u o) (hqueue : u.hushQueue = s.hushQueue)
    (hu : u.Stands o) : s.Stands o := by
  cases o with
  | beacon => exact hu.imp fun r hr => h ▸ hr
  | hush => exact ⟨hqueue ▸ hu.1, h ▸ hu.2⟩
  | hold i => exact hu.imp fun e he => ⟨h ▸ he.1, he.2⟩
  | survey => exact Eq.trans (Eq.symm h) hu

/-- Marking writes the granted owner's record alone (R15). -/
theorem State.granted_sameRecord (s : State) {o o' : Owner} (h : o ≠ o') : SameRecord s (s.granted o) o' := by
  obtain ⟨hbeacon, hhush, hsurvey, hhold⟩ := s.granted_others o
  cases o' with
  | beacon => exact hbeacon h
  | hush => exact hhush h
  | hold i => exact hhold i h
  | survey => exact hsurvey h

/-- What a deferral does to a hold entry: it waits in HOLDING, or the fifteenth deferral drops it (R93). -/
theorem State.deferOwner_hold (s : State) (i : Fin 16) : ∃ o, (s.deferOwner (.hold i)).hold = setAt s.hold i o
    ∧ ∀ f, o = some f → f.state = .holding
      ∧ ∃ e, s.hold[i] = some e ∧ f.attempts = e.attempts ∧ f.defers = e.defers + 1 ∧ e.defers + 1 < 15 := by
  unfold State.deferOwner
  dsimp only
  cases he : s.hold[i] with
  | none => exact ⟨none, by rw [← he, setAt_self]; simp [he], nofun⟩
  | some e =>
    dsimp only
    split
    · next hmore =>
      refine ⟨_, rfl, fun f hf => ?_⟩
      cases hf
      exact ⟨rfl, e, rfl, rfl, rfl, hmore⟩
    · exact ⟨none, (State.removeHold_some (s := { s with tx := none }) (k := .channelBusy) he).1, nofun⟩

/-- A deferral writes the deferred owner's record alone (R18). -/
theorem State.deferOwner_sameRecord (s : State) {o o' : Owner} (h : o ≠ o') : SameRecord s (s.deferOwner o) o' := by
  obtain ⟨hbeacon, hhush, hsurvey⟩ := s.deferOwner_others o
  cases o' with
  | beacon => exact hbeacon h
  | hush => exact hhush h
  | survey => exact hsurvey h
  | hold j =>
    cases o with
    | hold i =>
      obtain ⟨o, ho, -⟩ := s.deferOwner_hold i
      have hij : i ≠ j := fun hij => h (congrArg _ hij)
      rw [SameRecord, ho, setAt_other _ _ hij]
    | beacon => unfold State.deferOwner; dsimp only; split <;> rfl
    | hush => rfl
    | survey => rfl

/-- A grant deferred at once takes its request away and leaves the others (R16, R18). -/
theorem State.grant_stands {s : State} {o o' : Owner} (hrx : s.rx.busy = true) (ho : s.Stands o)
    (h : (s.grant o).Stands o') : o' ≠ o ∧ s.Stands o' := by
  rw [State.grant_of_busy hrx] at h
  have hne : o' ≠ o := by
    rintro rfl
    cases o' with
    | beacon =>
      obtain ⟨r, hr⟩ := ho
      obtain ⟨r', hr'⟩ := h
      simp [State.deferOwner, State.granted_beacon hr] at hr'
    | hush => exact absurd h.2 (by simp [State.deferOwner])
    | survey => exact absurd h (by simp [State.Stands, State.deferOwner])
    | hold i =>
      obtain ⟨o, hhold, hstate⟩ := (s.granted (.hold i)).deferOwner_hold i
      obtain ⟨e, he, hready⟩ := h
      rw [hhold, setAt_same] at he
      rw [(hstate e he).1] at hready
      cases hready
  refine ⟨hne, ?_⟩
  have hsame := (s.granted_sameRecord hne.symm).trans ((s.granted o).deferOwner_sameRecord hne.symm)
  exact hsame.stands (by simpa using congrArg State.hushQueue (s.granted_frame o)) h

/-- The arbiter leaves no request that it may grant, if it grants at least as often as owners are listed. -/
theorem State.arbitrateUpTo_quiet (n : Nat) : ∀ (s : State) (l : List Owner), l.length ≤ n → (∀ o, s.Stands o → o ∈ l) →
    Claim.Quiet (State.arbitrateUpTo n s) := by
  induction n with
  | zero =>
    intro s l hl hstands
    obtain rfl := List.length_eq_zero_iff.1 (Nat.le_zero.1 hl)
    exact quiet_of_none (s.nextRequest_none_iff.2 fun o ho => by simpa using hstands o ho)
  | succ n ih =>
    intro s l hl hstands
    unfold State.arbitrateUpTo
    split
    · next hidle =>
      split
      · next o ho =>
        have hmem := hstands o (State.nextRequest_some ho)
        cases hrx : s.rx.busy with
        | false =>
          have hquiet : Claim.Quiet (s.grant o) := by
            rw [State.grant_of_idle hrx]
            exact quiet_of_tx rfl
          rwa [State.arbitrateUpTo_of_quiet hquiet]
        | true =>
          refine ih (s.grant o) (l.erase o) ?_ fun o' ho' => ?_
          · rw [List.length_erase_of_mem hmem]
            omega
          · obtain ⟨hne, hstands'⟩ := State.grant_stands hrx (State.nextRequest_some ho) ho'
            exact (List.mem_erase_of_ne hne).2 (hstands o' hstands')
      · next hnone => exact quiet_of_none hnone
    · next hidle => exact fun hrun htx => absurd ⟨hrun, htx⟩ hidle

/-- Every owner there is (R15). -/
def owners : List Owner := [.beacon, .hush, .survey] ++ (List.finRange 16).map .hold

theorem mem_owners (o : Owner) : o ∈ owners := by
  cases o <;> simp [owners]

/-- After the end of an event no request stands that could be granted (R15). -/
theorem State.finish_quiet (s : State) : Claim.Quiet s.finish :=
  State.arbitrateUpTo_quiet 19 s owners (by simp [owners]) fun o _ => mem_owners o

/-! ### Every step keeps the grants' law -/

/-- A law that speaks of nothing in the background is kept, under the start-up law, if every effect keeps it. -/
theorem kept_of_effects_with_start {P : State → Prop} (hback : ∀ s u, Background s u → P s → P u)
    (heffect : ∀ s u, StartLaw s → P s → Effect s u → P u) : Kept fun s => StartLaw s ∧ P s := by
  intro s u hs h
  refine ⟨startLawIsKept s u hs.1 h, ?_⟩
  obtain ⟨hstart, hP⟩ := hs
  unfold step at h
  split at h
  · cases h
    exact hP
  · next c rest _ =>
    obtain ⟨v, hv, he⟩ := exec_does c { s with pending := rest }
    rw [hv] at h
    cases h
    have hfront : StartLaw ({ s with pending := rest }.advance c.time) := hstart
    exact heffect _ _ hfront (hback s _ (.front s rest c.time) hP) he

/-- Off the air, with the HUSH queue as it was, no request comes to stand. -/
theorem OffAir.quiet {s u : State} (h : OffAir s u) (hq : Claim.Quiet s)
    (hhush : u.hushQueue = s.hushQueue ∧ u.hushHead = s.hushHead) : Claim.Quiet u := by
  intro hrun htx
  obtain ⟨hqueue, hhead⟩ := hhush
  refine State.nextRequest_none_of_fewer (hq (h.station ▸ hrun) (h.tx ▸ htx)) (fun r hr => h.beacon ▸ hr)
    (fun hh => by rwa [← hqueue, ← hhead]) (fun i e he hready => ?_) fun hb => h.burst ▸ hb
  rcases h.hold i with hsame | ⟨-, hnew⟩
  · exact hsame ▸ he
  · rw [(hnew e he).1] at hready
    cases hready

theorem Background.quiet {s u : State} (h : Background s u) (hq : Claim.Quiet s) : Claim.Quiet u :=
  h.offAir.quiet hq (by rw [h]; exact ⟨rfl, rfl⟩)

/-- A record accepted at reset values schedules the first beacon; nothing requests (R184). -/
theorem AtReset.quiet_acceptRecord {s : State} (h : AtReset s) (r : Record) : Claim.Quiet (s.acceptRecord r) := by
  obtain ⟨-, -, -, -, -, -, -, -, -, -, -, hhold, hqueue, -, -, -, -, -, -, -, -, -, -, -, -, -, -, -, -, hburst,
      -⟩ := h
  refine quiet_of_none ((State.nextRequest_eq_none_iff _).2 ⟨nofun, fun hh => hh.1 hqueue, fun i e he => ?_, ?_⟩)
  · have hnone : s.hold[i] = none := by simp [hhold]
    cases hnone.symm.trans he
  · exact fun hdue => by cases hburst.symm.trans hdue

/-- CONFIG_FAULT apart, the record in `bytes` is accepted as any (R183). -/
theorem Background.acceptBytes (s : State) (bytes : Nat → Byte) :
    Background (s.acceptRecord (recordOf bytes)) (s.acceptBytes bytes) := by
  unfold State.acceptBytes
  dsimp only
  split <;> rfl

/-- An accepted SUBMIT leaves the HUSH queue (R156). -/
theorem State.acceptSubmit_hush {s : State} {d g : Byte} {dest : Address} {p : List Byte}
    (h : s.submitRefusal d g dest p.length = none) (goal : Goal) (hops : Byte) :
    (s.acceptSubmit goal dest hops p).hushQueue = s.hushQueue
      ∧ (s.acceptSubmit goal dest hops p).hushHead = s.hushHead := by
  obtain ⟨-, ⟨k, hslot⟩, ⟨i, hindex⟩, hroom⟩ := State.submitRefusal_found h
  rw [State.acceptSubmit_eq goal dest hops p hslot hindex hroom]
  exact ⟨rfl, rfl⟩

/-- Every effect leaves nothing that could be granted: it grants at its end, leaves the station off duty or the
transmitter taken, or makes no request. -/
theorem Effect.quiet {s u : State} (hs : StartLaw s) (hq : Claim.Quiet s) (h : Effect s u) : Claim.Quiet u := by
  induction h with
  | aside h _ => exact h.quiet hq
  | answered _ bytes ih => exact (Background.answer _ bytes).quiet ih
  | reset => exact quiet_of_not_running nofun
  | loading hstation h _ =>
    refine h.quiet (quiet_of_not_running ?_)
    rcases hstation with rfl | rfl <;> exact nofun
  | @accepted bytes _ hload =>
    exact (Background.acceptBytes s bytes).quiet ((hs.atReset_of_load hload).quiet_acceptRecord _)
  | cleared => exact quiet_of_not_running nofun
  | restarted hr => exact (Background.settle _).quiet ((atReset_resetBlocks s).quiet_acceptRecord _)
  | discarded hf => exact (OffAir.of_frame ⟨rfl, rfl, rfl, rfl, rfl, rfl, rfl, rfl⟩).quiet hq ⟨rfl, rfl⟩
  | clear _ _ => exact quiet_of_tx rfl
  | phase ha hb _ _ _ _ => exact quiet_of_tx hb
  | missed hn => exact (offAir_missBeacon s _ _).quiet hq (by simp)
  | beaconReplaced r' _ =>
    exact fun hrun htx => State.nextRequest_none_of_fewer (hq hrun htx) nofun id (fun _ _ he _ => he) id
  | echoExpired he hstate => exact (offAir_expireEcho he hstate).quiet hq (by simp)
  | submitted hnone goal hops =>
    exact (offAir_acceptSubmit hnone goal hops).quiet hq
      (State.acceptSubmit_hush hnone goal hops)
  | slotRead k n => exact (OffAir.of_frame ⟨rfl, rfl, rfl, rfl, rfl, rfl, rfl, rfl⟩).quiet hq ⟨rfl, rfl⟩
  | released hring => exact (OffAir.of_frame ⟨rfl, rfl, rfl, rfl, rfl, rfl, rfl, rfl⟩).quiet hq ⟨rfl, rfl⟩
  | statsCleared => exact hq
  | tallyCleared => exact hq
  | silenced hrun => exact quiet_of_not_running (by simp [State.silenced])
  | _ => exact State.finish_quiet _

/-- Settles O58: every event ends with the arbiter's grants, or can make no request. -/
theorem grantLawIsKept : Obligations.GrantLawIsKept :=
  kept_of_effects_with_start (P := Claim.Quiet) (fun _ _ h hq => h.quiet hq) fun _ _ hs hq h => h.quiet hs hq

end Sys2Proof.Machine
end

section
namespace Sys2Proof.Machine

/-! ### Who is in attempt (R15, R18, R19)

An owner's record says that it is in attempt exactly while the transmitter has its attempt: said once for each owner,
and then for what an event does to one owner's record. -/

/-- The owner's record says of no attempt. -/
def State.Resting (s : State) : Owner → Prop
  | .beacon => ∀ r, s.beacon ≠ .inAttempt r
  | .hush => s.hushHead ≠ .inAttempt
  | .hold i => ∀ e, s.hold[i] = some e → e.Rests
  | .survey => s.burst ≠ .inAttempt ∧ s.burst ≠ .ending

/-- The owner's record says of its attempt in the phase it is in. -/
def State.InTurn (s : State) (p : Phase) : Owner → Prop
  | .beacon => ∃ r, s.beacon = .inAttempt r
  | .hush => s.hushHead = .inAttempt
  | .hold i => ∃ e, s.hold[i] = some e ∧ e.state = if p = .assessing then .assessing else .sending
  | .survey => s.burst = .inAttempt ∨ s.burst = .ending ∧ p ≠ .assessing

/-- The attempt in progress and the owners' records agree. -/
structure Owners (s : State) : Prop where
  resting : ∀ o, (∀ a, s.tx = some a → a.owner ≠ o) → s.Resting o
  inTurn : ∀ a, s.tx = some a → s.InTurn a.phase a.owner
  queue : s.hushQueue = [] → s.hushHead = .standing

theorem State.InTurn.not_resting {s : State} {p : Phase} {o : Owner} (h : s.InTurn p o) : ¬s.Resting o := by
  cases o with
  | beacon => exact fun hr => h.elim hr
  | hush => exact fun hr => hr h
  | hold i =>
    obtain ⟨e, he, hstate⟩ := h
    intro hr
    obtain ⟨hassess, hsend⟩ := hr e he
    split at hstate
    · exact hassess hstate
    · exact hsend hstate
  | survey => exact fun hr => h.elim hr.1 fun hend => hr.2 hend.1

/-- At hold places and attempts the law says the same (R15). -/
theorem hold_inTurn_iff (s : State) (i : Fin 16) (e : Hold) :
    ((∀ a, s.tx = some a → a.owner ≠ .hold i) → e.Rests)
        ∧ (∀ a, s.tx = some a → a.owner = .hold i → e.state = if a.phase = .assessing then .assessing else .sending)
      ↔ (e.state = .assessing ↔ s.tx.any fun a => a.owner = .hold i ∧ a.phase = .assessing)
        ∧ (e.state = .sending ↔ s.tx.any fun a => a.owner = .hold i ∧ a.pastAssessing) := by
  cases htx : s.tx with
  | none => simp [Hold.Rests]
  | some a =>
    by_cases ho : a.owner = .hold i
    · by_cases hp : a.phase = .assessing
      · simp only [Option.some.injEq, forall_eq', ho, hp, Option.any_some, a.pastAssessing_iff]
        cases e.state <;> simp
      · simp only [Option.some.injEq, forall_eq', ho, hp, Option.any_some, a.pastAssessing_iff]
        cases e.state <;> simp [hp]
    · simp [Hold.Rests, ho]

theorem ownerLaw_iff (s : State) : OwnerLaw s ↔ StartLaw s ∧ Owners s := by
  have hany (o : Owner) : (s.tx.any fun a => a.owner = o) = true ↔ ∃ a, s.tx = some a ∧ a.owner = o := by
    simp [Option.any_eq_true]
  constructor
  · rintro ⟨hs, hbeacon, ⟨hhush, hqueue⟩, hsurvey, hending, hheld, hentries⟩
    rw [hany] at hbeacon hhush hsurvey
    refine ⟨hs, fun o ho => ?_, fun a ha => ?_, hqueue⟩
    · cases o with
      | beacon => exact fun r hr => (hbeacon.1 ⟨r, hr⟩).elim fun a h => ho a h.1 h.2
      | hush => exact fun hh => (hhush.1 hh).elim fun a h => ho a h.1 h.2
      | survey =>
        exact ⟨fun hb => (hsurvey.1 (.inl hb)).elim fun a h => ho a h.1 h.2,
          fun hb => (hsurvey.1 (.inr hb)).elim fun a h => ho a h.1 h.2⟩
      | hold i => exact fun e he => ((hold_inTurn_iff s i e).2 (hentries i e he)).1 ho
    · cases ho : a.owner with
      | beacon => exact hbeacon.2 ⟨a, ha, ho⟩
      | hush => exact hhush.2 ⟨a, ha, ho⟩
      | survey =>
        refine (hsurvey.2 ⟨a, ha, ho⟩).imp id fun hb => ⟨hb, ?_⟩
        have hpast := hending hb
        rwa [ha, Option.any_some, a.pastAssessing_iff] at hpast
      | hold i =>
        obtain ⟨e, he⟩ := Option.isSome_iff_exists.1 (hheld a ha i ho)
        exact ⟨e, he, ((hold_inTurn_iff s i e).2 (hentries i e he)).2 a ha ho⟩
  · rintro ⟨hs, hresting, hturn, hqueue⟩
    have taken {o : Owner} (h : ¬s.Resting o) : ∃ a, s.tx = some a ∧ a.owner = o := by
      by_contra hnone
      exact h (hresting o fun a ha ho => hnone ⟨a, ha, ho⟩)
    have turn {o : Owner} (h : ∃ a, s.tx = some a ∧ a.owner = o) : ∃ p, s.InTurn p o := by
      obtain ⟨a, ha, rfl⟩ := h
      exact ⟨_, hturn a ha⟩
    refine ⟨hs, ?_, ⟨?_, hqueue⟩, ?_, fun hb => ?_, fun a ha i ho => ?_, fun i e he => ?_⟩
    · rw [hany]
      exact ⟨fun ⟨r, hr⟩ => taken fun hrest => hrest r hr, fun h => (turn h).elim fun _ h => h⟩
    · rw [hany]
      exact ⟨fun hh => taken fun hrest => hrest hh, fun h => (turn h).elim fun _ h => h⟩
    · rw [hany]
      refine ⟨fun hb => taken fun hrest => hb.elim hrest.1 hrest.2, fun h => (turn h).elim fun p hp => ?_⟩
      exact hp.imp id And.left
    · obtain ⟨a, ha, ho⟩ := taken (o := .survey) fun hrest => hrest.2 hb
      have hp : s.InTurn a.phase .survey := ho ▸ hturn a ha
      rw [ha, Option.any_some, a.pastAssessing_iff]
      rcases hp with hin | ⟨-, hp⟩
      · rw [hb] at hin
        cases hin
      · exact hp
    · have hp : s.InTurn a.phase (.hold i) := ho ▸ hturn a ha
      obtain ⟨e, he, -⟩ := hp
      rw [he]
      rfl
    · refine (hold_inTurn_iff s i e).1 ⟨fun hno => hresting (.hold i) hno e he, fun a ha ho => ?_⟩
      have hp : s.InTurn a.phase (.hold i) := ho ▸ hturn a ha
      obtain ⟨f, hf, hstate⟩ := hp
      rw [he] at hf
      cases hf
      exact hstate

/-! ### One owner's record changes -/

theorem SameRecord.refl (s : State) (o : Owner) : SameRecord s s o := by
  cases o <;> rfl

theorem SameRecord.resting {s u : State} {o : Owner} (h : SameRecord s u o) (hs : s.Resting o) : u.Resting o := by
  cases o with
  | beacon => exact fun r hr => hs r ((Eq.symm h).trans hr)
  | hush => exact fun hh => hs ((Eq.symm h).trans hh)
  | hold i => exact fun e he => hs e ((Eq.symm h).trans he)
  | survey => exact ⟨fun hb => hs.1 ((Eq.symm h).trans hb), fun hb => hs.2 ((Eq.symm h).trans hb)⟩

theorem SameRecord.inTurn {s u : State} {p : Phase} {o : Owner} (h : SameRecord s u o) (hs : s.InTurn p o) :
    u.InTurn p o := by
  cases o with
  | beacon => exact hs.imp fun r hr => Eq.trans h hr
  | hush => exact Eq.trans h hs
  | hold i => exact hs.imp fun e he => ⟨Eq.trans h he.1, he.2⟩
  | survey => exact hs.imp (Eq.trans h) fun hb => ⟨Eq.trans h hb.1, hb.2⟩

section Change

variable {s u : State}

/-- Where the transmitter is IDLE every owner rests. -/
theorem Owners.all_resting (h : Owners s) (htx : s.tx = none) (o : Owner) : s.Resting o :=
  h.resting o fun a ha => by rw [htx] at ha; cases ha

theorem Owners.others_resting (h : Owners s) {a : Attempt} (ha : s.tx = some a) {o : Owner} (ho : a.owner ≠ o) :
    s.Resting o := h.resting o fun b hb => by rw [ha] at hb; cases hb; exact ho

/-- An attempt begins, or goes on in another phase. -/
theorem Owners.taken {b : Attempt} (hrest : ∀ o, b.owner ≠ o → s.Resting o) (htx : u.tx = some b)
    (hsame : ∀ o, b.owner ≠ o → SameRecord s u o) (hturn : u.InTurn b.phase b.owner)
    (hqueue : u.hushQueue = [] → u.hushHead = .standing) : Owners u where
  resting o ho := (hsame o (ho b htx)).resting (hrest o (ho b htx))
  inTurn a ha := by rw [htx] at ha; cases ha; exact hturn
  queue := hqueue

/-- An attempt ends. -/
theorem Owners.freed (o : Owner) (hrest : ∀ o', o ≠ o' → s.Resting o') (htx : u.tx = none)
    (hsame : ∀ o', o ≠ o' → SameRecord s u o') (howner : u.Resting o)
    (hqueue : u.hushQueue = [] → u.hushHead = .standing) : Owners u where
  resting o' _ := by
    by_cases ho : o = o'
    · exact ho ▸ howner
    · exact (hsame o' ho).resting (hrest o' ho)
  inTurn a ha := by rw [htx] at ha; cases ha
  queue := hqueue

/-- An owner at rest stays so. -/
theorem Owners.still (h : Owners s) (o : Owner) (htx : u.tx = s.tx) (hsame : ∀ o', o ≠ o' → SameRecord s u o')
    (hs : s.Resting o) (hu : u.Resting o) (hqueue : u.hushQueue = [] → u.hushHead = .standing) : Owners u where
  resting o' ho' := by
    by_cases ho : o = o'
    · exact ho ▸ hu
    · exact (hsame o' ho).resting (h.resting o' (htx ▸ ho'))
  inTurn a ha := by
    have hturn := h.inTurn a (htx ▸ ha)
    exact (hsame a.owner fun ho => hturn.not_resting (ho ▸ hs)).inTurn hturn
  queue := hqueue

/-- Where the transmitter and the owners' records are as they were the agreement stands. -/
theorem Owners.of_same (h : Owners s) (hu : u.tx = s.tx ∧ u.beacon = s.beacon ∧ u.burst = s.burst
    ∧ u.hushQueue = s.hushQueue ∧ u.hushHead = s.hushHead ∧ u.hold = s.hold) : Owners u := by
  obtain ⟨htx, hbeacon, hburst, hqueue, hhead, hhold⟩ := hu
  have hsame (o : Owner) : SameRecord s u o := by
    cases o with
    | beacon => exact hbeacon
    | hush => exact hhead
    | hold i => rw [SameRecord, hhold]
    | survey => exact hburst
  exact ⟨fun o ho => (hsame o).resting (h.resting o (htx ▸ ho)), fun a ha => (hsame _).inTurn (h.inTurn a (htx ▸ ha)),
    fun hempty => hhead.trans (h.queue (hqueue ▸ hempty))⟩

/-- What is off the air leaves the agreement. -/
theorem OffAir.owners (h : OffAir s u) (hs : Owners s) : Owners u where
  resting o ho := by
    have hrest := hs.resting o (h.tx ▸ ho)
    cases o with
    | beacon => exact fun r hr => hrest r (h.beacon ▸ hr)
    | survey => rw [State.Resting, h.burst]; exact hrest
    | hush =>
      rcases h.hush with ⟨-, hhead⟩ | ⟨-, hhead⟩ <;> rw [State.Resting, hhead]
      · exact hrest
      · split
        · exact nofun
        · exact hrest
    | hold i =>
      intro e he
      rcases h.hold i with hsame | ⟨-, hnew⟩
      · exact hrest e (hsame ▸ he)
      · exact .of_state (.inl (hnew e he).1)
  inTurn a ha := by
    have hturn := hs.inTurn a (h.tx ▸ ha)
    revert hturn
    cases a.owner with
    | beacon => exact fun hturn => hturn.imp fun r hr => h.beacon.trans hr
    | survey => rw [State.InTurn, State.InTurn, h.burst]; exact id
    | hush =>
      intro hturn
      rcases h.hush with ⟨-, hhead⟩ | ⟨-, hhead⟩
      · exact hhead.trans hturn
      · rw [if_neg fun hempty => by cases (hs.queue hempty).symm.trans hturn] at hhead
        exact hhead.trans hturn
    | hold i =>
      rintro ⟨e, he, hstate⟩
      rcases h.hold i with hsame | ⟨hrests, -⟩
      · exact ⟨e, hsame.trans he, hstate⟩
      · obtain ⟨hassess, hsend⟩ := hrests e he
        split at hstate
        · exact absurd hstate hassess
        · exact absurd hstate hsend
  queue hempty := by
    rcases h.hush with ⟨hqueue, hhead⟩ | ⟨hqueue, -⟩
    · exact hhead.trans (hs.queue (hqueue ▸ hempty))
    · exact absurd hempty hqueue

theorem Background.owners (h : Background s u) (hs : Owners s) : Owners u := h.offAir.owners hs

end Change

/-! ### Grant, deferral, clear and sent -/

section Attempt

variable {s : State}

/-- A grant to an owner whose request stands puts it in attempt (R15, R18). -/
theorem Owners.granted {o : Owner} (h : Owners s) (htx : s.tx = none) (ho : s.Stands o) : Owners (s.granted o) := by
  have hqueue : (s.granted o).hushQueue = s.hushQueue := by rw [State.granted_frame]
  refine .taken (b := ⟨o, s.grantRate o, .assessing, s.now + 96 * s.cfg.ccaMs⟩) (fun o' _ => h.all_resting htx o') rfl
    (fun o' ho' => s.granted_sameRecord ho') ?_ fun hempty => ?_
  · cases o with
    | beacon => exact ho.imp fun r hr => State.granted_beacon hr
    | hush => exact rfl
    | survey => exact .inl rfl
    | hold i =>
      obtain ⟨e, he, -⟩ := ho
      refine ⟨{ e with state := .assessing }, ?_, (if_pos rfl).symm⟩
      rw [State.granted_hold he, setAt_same]
  · have hsempty : s.hushQueue = [] := hqueue ▸ hempty
    have hne : o ≠ .hush := by
      rintro rfl
      exact ho.1 hsempty
    exact Eq.trans (s.granted_sameRecord hne) (h.queue hsempty)

/-- A deferral leaves its owner at rest (R18). -/
theorem State.deferOwner_resting {p : Phase} {o : Owner} (h : s.InTurn p o) : (s.deferOwner o).Resting o := by
  cases o with
  | beacon =>
    obtain ⟨r, hr⟩ := h
    simp [State.Resting, State.deferOwner, hr]
  | hush => exact nofun
  | survey => exact ⟨nofun, nofun⟩
  | hold i =>
    obtain ⟨o, hhold, hstate⟩ := s.deferOwner_hold i
    intro e he
    rw [hhold, setAt_same] at he
    exact .of_state (.inl (hstate e he).1)

/-- An attempt judged busy ends, its owner deferred (R16, R18). -/
theorem Owners.deferOwner {a : Attempt} (h : Owners s) (ha : s.tx = some a) : Owners (s.deferOwner a.owner) := by
  refine .freed (s := s) a.owner (fun o ho => h.others_resting ha ho) (s.deferOwner_tx _)
    (fun o ho => s.deferOwner_sameRecord ho) (State.deferOwner_resting (h.inTurn a ha)) fun hempty => ?_
  have hstanding := h.queue (by simpa using hempty)
  have hne : a.owner ≠ .hush := fun ho => by
    have hturn : s.InTurn a.phase .hush := ho ▸ h.inTurn a ha
    cases hstanding.symm.trans hturn
  exact Eq.trans (s.deferOwner_sameRecord hne) hstanding

theorem Owners.grant {o : Owner} (h : Owners s) (htx : s.tx = none) (ho : s.Stands o) : Owners (s.grant o) := by
  have hgranted := h.granted htx ho
  cases hrx : s.rx.busy with
  | false => rwa [State.grant_of_idle hrx]
  | true =>
    rw [State.grant_of_busy hrx]
    exact hgranted.deferOwner (a := ⟨o, s.grantRate o, .assessing, s.now + 96 * s.cfg.ccaMs⟩) rfl

/-- The arbiter leaves the agreement (R15). -/
theorem Owners.finish (h : Owners s) : Owners s.finish :=
  (Background.settle _).owners (State.arbitrateUpTo_induct (P := Owners)
    (fun _ _ hu _ htx ho => hu.grant htx (State.nextRequest_some ho)) 19 s h)

theorem Owners.judgeBusy (h : Owners s) : Owners s.judgeBusy := by
  unfold State.judgeBusy
  split
  · next a ha =>
    split
    · exact h.deferOwner ha
    · exact h
  · exact h

/-- The owner told "clear" is in attempt past ASSESSING (R16, R18). -/
theorem Owners.clearChannel {a : Attempt} (h : Owners s) (ha : s.tx = some a) (hp : a.phase = .assessing) :
    Owners (s.clearChannel a) := by
  have hturn := h.inTurn a ha
  have hothers (o : Owner) (ho : a.owner ≠ o) : SameRecord s (s.clearChannel a) o := by
    cases o with
    | hold j =>
      rw [SameRecord, State.clearChannel]
      cases ha' : a.owner with
      | hold i =>
        have hij : i ≠ j := fun hij => ho (by rw [ha', hij])
        unfold State.ownerClear
        dsimp only
        split
        · exact setAt_other _ _ hij
        · rfl
      | _ => rfl
    | _ => simp [SameRecord, State.clearChannel]
  refine .taken (s := s) (b := { a with phase := .settling, ends := s.now + ms 1 })
    (fun o ho => h.others_resting ha ho) rfl hothers ?_ fun hempty => ?_
  · revert hturn
    cases ho : a.owner with
    | beacon => simp [State.InTurn, State.clearChannel]
    | hush => simp [State.InTurn, State.clearChannel]
    | survey => simpa [State.InTurn, State.clearChannel, hp] using Or.inl
    | hold i =>
      rintro ⟨e, he, -⟩
      refine ⟨{ e with state := .sending, attempts := e.attempts + 1, transmitRank := s.clearRank e }, ?_, rfl⟩
      simp only [State.clearChannel, ho, State.ownerClear, he]
      exact setAt_same ..
  · have hhead : (s.clearChannel a).hushHead = s.hushHead := by simp [State.clearChannel]
    exact hhead.trans (h.queue (by simpa [State.clearChannel] using hempty))

/-- "sent" leaves the owner at rest (R18, R55, R96, R112, R175). -/
theorem State.ownerSent_resting {p : Phase} {o : Owner} (h : s.InTurn p o) : (s.ownerSent o).Resting o := by
  cases o with
  | beacon => intro r hr; simp [State.ownerSent, State.beaconSent] at hr
  | hush => exact nofun
  | survey =>
    show s.surveySent.burst ≠ .inAttempt ∧ s.surveySent.burst ≠ .ending
    rcases h with hb | ⟨hb, -⟩
    · obtain ⟨-, hlast, hmore⟩ := surveySent_inAttempt hb
      by_cases hc : s.burstRec.sent + 1 = s.burstRec.count
      · simp [(hlast hc).1]
      · simp [hmore hc]
    · simp [surveySent_ending hb]
  | hold i =>
    obtain ⟨e, he, -⟩ := h
    show ∀ f, (s.holdSent i).hold[i] = some f → f.Rests
    unfold State.holdSent
    rw [he]
    have hremoved (k : Ending) : ∀ f, (s.removeHold i k).hold[i] = some f → f.Rests := fun f hf => by
      rw [(State.removeHold_some he).1, setAt_same] at hf
      cases hf
    dsimp only
    split
    · split
      · exact hremoved _
      · intro f hf
        rw [State.setHold, setAt_same] at hf
        cases hf
        exact .of_state (.inr (.inr rfl))
    · exact hremoved _

/-- "sent" writes the record of its owner alone (R18). -/
theorem State.ownerSent_sameRecord {o o' : Owner} (h : o ≠ o') : SameRecord s (s.ownerSent o) o' := by
  cases o' with
  | hold j => exact ownerSent_hold_other h
  | beacon => cases o <;> simp_all [SameRecord, State.ownerSent, State.hushSent]
  | hush => cases o <;> simp_all [SameRecord, State.ownerSent, State.beaconSent]
  | survey => cases o <;> simp_all [SameRecord, State.ownerSent, State.hushSent, State.beaconSent]

/-- An attempt ends with its frame (R17, R18). -/
theorem Owners.endBody {a : Attempt} (h : Owners s) (ha : s.tx = some a) : Owners (s.endBody a) := by
  rw [State.endBody_eq]
  have hturn : s.released.InTurn a.phase a.owner :=
    SameRecord.inTurn (s := s) (by cases a.owner <;> rfl) (h.inTurn a ha)
  refine .freed (s := s.released) a.owner (fun o ho => ?_) (by simp [State.released])
    (fun o ho => State.ownerSent_sameRecord ho) (State.ownerSent_resting hturn) fun hempty => ?_
  · exact SameRecord.resting (s := s) (by cases o <;> rfl) (h.others_resting ha ho)
  · cases ho : a.owner with
    | hush => rfl
    | _ =>
      have hne : a.owner ≠ .hush := by simp [ho]
      rw [ho] at hne hempty
      refine Eq.trans (s.released.ownerSent_sameRecord hne) (h.queue ?_)
      simpa [State.ownerSent, State.beaconSent, State.released] using hempty

end Attempt

end Sys2Proof.Machine
end

section
namespace Sys2Proof.Machine

/-! ### Every step keeps who is in attempt -/

section Cancelled

variable {s : State}

/-- Where the blocks are at reset values nobody is in attempt. -/
theorem AtReset.owners (h : AtReset s) : Owners s := by
  obtain ⟨-, -, htx, -, -, -, -, -, hbeacon, -, -, hhold, -, hhead, -, -, -, -, -, -, -, -, -, -, -, -, -, -, -,
      hburst, -⟩ := h
  refine ⟨fun o _ => ?_, fun a ha => (by cases htx.symm.trans ha), fun _ => hhead⟩
  cases o with
  | beacon => exact fun r hr => by cases hbeacon.symm.trans hr
  | hush => exact fun hh => by cases hhead.symm.trans hh
  | survey => exact ⟨fun hb => (by cases hburst.symm.trans hb), fun hb => (by cases hburst.symm.trans hb)⟩
  | hold i =>
    intro e he
    have hnone : s.hold[i] = none := by simp [hhold]
    cases hnone.symm.trans he

/-- A record accepted schedules the first beacon and puts nobody in attempt (R184). -/
theorem AtReset.owners_acceptRecord (h : AtReset s) (r : Record) : Owners (s.acceptRecord r) := by
  have hbeacon : s.beacon = .stopped := by obtain ⟨-, -, -, -, -, -, -, -, hbeacon, -⟩ := h; exact hbeacon
  refine h.owners.still .beacon rfl (fun o ho => ?_) (fun r hr => (by cases hbeacon.symm.trans hr)) nofun h.owners.queue
  cases o with
  | beacon => exact absurd rfl ho
  | _ => exact rfl

/-- An entry in HOLDING is READY, or goes (R91). -/
theorem Owners.expireHold {i : Fin 16} {e : Hold} (h : Owners s) (he : s.hold[i] = some e)
    (hstate : e.state = .holding) :
    Owners (s.expireHold i e) := by
  have hrests : ∀ f, s.hold[i] = some f → f.Rests := fun f hf => by
    rw [he] at hf
    cases hf
    exact .of_state (.inl hstate)
  unfold State.expireHold
  split
  · exact (offAir_removeHold _ hrests).owners h
  · refine h.still (.hold i) rfl (fun o ho => ?_) hrests (fun f hf => ?_) h.queue
    · cases o with
      | hold j => exact setAt_other _ _ fun hij => ho (by rw [hij])
      | _ => exact rfl
    · rw [State.setHold, setAt_same] at hf
      cases hf
      exact .of_state (.inr (.inl rfl))

/-- A burst ends at once, or its frame past ASSESSING is let finish (R176). -/
theorem Owners.endBurst (h : Owners s) (hp : ∀ a, s.tx = some a → a.owner = .survey → a.phase ≠ .assessing) :
    Owners s.endBurst := by
  have hburst : s.endBurst.burst = if s.burst = .inAttempt ∨ s.burst = .ending then .ending else .stopped := by
    rw [State.endBurst_eq]
  have hothers (o : Owner) (ho : Owner.survey ≠ o) : SameRecord s s.endBurst o := by
    cases o with
    | survey => exact absurd rfl ho
    | _ => simp [SameRecord]
  have hqueue : s.endBurst.hushQueue = [] → s.endBurst.hushHead = .standing := by simpa using h.queue
  by_cases hin : s.burst = .inAttempt ∨ s.burst = .ending
  · rw [if_pos hin] at hburst
    have hturning : ¬s.Resting .survey := fun hrest => hin.elim hrest.1 hrest.2
    obtain ⟨a, ha, ho⟩ : ∃ a, s.tx = some a ∧ a.owner = .survey := by
      by_contra hnone
      exact hturning (h.resting .survey fun a ha ho => hnone ⟨a, ha, ho⟩)
    refine .taken (s := s) (b := a) (fun o => h.others_resting ha) (by simpa using ha)
      (fun o hne => hothers o (ho ▸ hne)) ?_ hqueue
    rw [ho]
    exact .inr ⟨hburst, hp a ha ho⟩
  · rw [if_neg hin] at hburst
    refine h.still .survey (by simp) hothers ⟨fun hb => hin (.inl hb), fun hb => hin (.inr hb)⟩ ?_ hqueue
    rw [State.Resting, hburst]
    exact ⟨nofun, nofun⟩

/-- STOP_SURVEY ends the attempt of a survey frame in ASSESSING (R19, R176). -/
theorem Owners.cancelSurvey (h : Owners s) : Owners s.cancelSurvey
    ∧ ∀ a, s.cancelSurvey.tx = some a → a.owner = .survey → a.phase ≠ .assessing := by
  by_cases hother : ∀ a, s.tx = some a → a.owner = .survey → a.phase ≠ .assessing
  · rw [State.cancelSurvey_other hother]
    exact ⟨h, hother⟩
  · push Not at hother
    obtain ⟨a, ha, ho, hp⟩ := hother
    rw [State.cancelSurvey_assessing ha ho hp]
    refine ⟨.freed (s := s) .survey (fun o hne => h.others_resting ha (ho ▸ hne)) rfl (fun o hne => ?_) ⟨nofun, nofun⟩
      h.queue, nofun⟩
    cases o with
    | survey => exact absurd rfl hne
    | _ => exact rfl

/-- The hold list after SILENCE: what is being sent (R100). -/
theorem State.silenceHolds_hold (s : State) (i : Fin 16) :
    s.silenceHolds.hold[i] = s.hold[i].filter fun e => e.state = .sending := by
  rw [State.silenceHolds, State.foldl_silenceHold_hold, if_pos (List.mem_finRange i)]

/-- SILENCE at the hold list touches no entry being sent (R100). -/
theorem Owners.silenceHolds (h : Owners s) (hp : ∀ a, s.tx = some a → a.phase ≠ .assessing) :
    Owners s.silenceHolds where
  resting o ho := by
    have hrest := h.resting o (by simpa using ho)
    cases o with
    | hold i =>
      intro e he
      rw [State.silenceHolds_hold, Option.filter_eq_some_iff] at he
      exact hrest e he.1
    | _ => simpa [State.Resting] using hrest
  inTurn a ha := by
    have hatx : s.tx = some a := by simpa using ha
    have hturn := h.inTurn a hatx
    revert hturn
    cases a.owner with
    | hold i =>
      rintro ⟨e, he, hstate⟩
      refine ⟨e, ?_, hstate⟩
      rw [if_neg (hp a hatx)] at hstate
      rw [State.silenceHolds_hold, he, Option.filter_some_pos (by simp [hstate])]
    | _ => simp [State.InTurn]
  queue hempty := by simpa using h.queue (by simpa using hempty)

/-- Cancelling writes the record of its owner alone, a hold entry's not even that (R19). -/
theorem State.cancelOwner_sameRecord {o o' : Owner} (h : o ≠ o') : SameRecord s (s.cancelOwner o) o' := by
  cases o with
  | beacon =>
    unfold State.cancelOwner
    dsimp only
    cases o' with
    | beacon => exact absurd rfl h
    | _ => split <;> rfl
  | hush =>
    cases o' with
    | hush => exact absurd rfl h
    | _ => rfl
  | hold i => cases o' <;> rfl
  | survey =>
    cases o' with
    | survey => exact absurd rfl h
    | _ => rfl

/-- A beacon, a HUSH head and a burst whose attempt is cancelled rest (R57, R113, R176). -/
theorem State.cancelOwner_resting {p : Phase} {o : Owner} (h : s.InTurn p o) (ho : ∀ i, o ≠ .hold i) :
    (s.cancelOwner o).Resting o := by
  cases o with
  | beacon =>
    obtain ⟨r, hr⟩ := h
    simp [State.Resting, State.cancelOwner, hr]
  | hush => exact nofun
  | survey => exact ⟨nofun, nofun⟩
  | hold i => exact absurd rfl (ho i)

/-- SILENCE ends the attempt in ASSESSING; a hold entry so cancelled goes with the others (R19, R100). -/
theorem Owners.silenceCancelled {a : Attempt} (h : Owners s) (ha : s.tx = some a) (hp : a.phase = .assessing) :
    Owners s.cancelAttempt.silenceHolds := by
  have hturn := h.inTurn a ha
  rw [State.cancelAttempt_assessing ha hp]
  have hrest (o : Owner) (ho : ∀ i, o ≠ .hold i) : (s.cancelOwner a.owner).Resting o := by
    by_cases hne : a.owner = o
    · rw [← hne] at ho ⊢
      exact State.cancelOwner_resting hturn ho
    · exact (State.cancelOwner_sameRecord hne).resting (h.others_resting ha hne)
  refine ⟨fun o _ => ?_, fun b hb => ?_, fun hempty => ?_⟩
  · cases o with
    | hold i =>
      intro e he
      have hhold : (s.cancelOwner a.owner).hold = s.hold := by simp
      rw [State.silenceHolds_hold, hhold, Option.filter_eq_some_iff, decide_eq_true_eq] at he
      obtain ⟨he, hsending⟩ := he
      by_cases ho : a.owner = .hold i
      · have hassessing : s.InTurn .assessing (.hold i) := hp ▸ ho ▸ hturn
        obtain ⟨f, hf, hstate⟩ := hassessing
        rw [he] at hf
        cases hf
        cases hsending.symm.trans hstate
      · exact h.others_resting ha ho e he
    | beacon => simpa [State.Resting] using hrest .beacon nofun
    | hush => simpa [State.Resting] using hrest .hush nofun
    | survey => simpa [State.Resting] using hrest .survey nofun
  · simp [State.cancelOwner_tx] at hb
  · have hstanding := h.queue (by simpa using hempty)
    by_cases ho : a.owner = .hush
    · have hassessing : s.InTurn a.phase .hush := ho ▸ hturn
      cases hstanding.symm.trans hassessing
    · simpa using Eq.trans (State.cancelOwner_sameRecord (s := s) ho) hstanding

/-- SILENCE leaves in attempt what is past ASSESSING (R19, R100, R167). -/
theorem Owners.silenced (h : Owners s) : Owners s.silenced := by
  have hsilent : Owners { s with station := .silent } := h.of_same ⟨rfl, rfl, rfl, rfl, rfl, rfl⟩
  unfold State.silenced
  by_cases hother : ∀ a, s.tx = some a → a.phase ≠ .assessing
  · rw [State.cancelAttempt_other (s := { s with station := .silent }) hother]
    refine (hsilent.silenceHolds hother).endBurst fun a ha _ => hother a (by simpa using ha)
  · push Not at hother
    obtain ⟨a, ha, hp⟩ := hother
    refine (hsilent.silenceCancelled ha hp).endBurst fun b hb => ?_
    simp [State.cancelAttempt_assessing (s := { s with station := .silent }) ha hp, State.cancelOwner_tx] at hb

/-- Another phase past ASSESSING (R17). -/
theorem Owners.phase {u : State} {a b : Attempt} (h : Owners s) (ha : s.tx = some a) (hb : u.tx = some b)
    (hsame : b.owner = a.owner) (hpast : a.phase ≠ .assessing ∧ b.phase ≠ .assessing)
    (hu : Background { s with tx := u.tx } u) : Owners u := by
  refine hu.owners (.taken (s := s) (b := b) (fun o ho => h.others_resting ha (hsame ▸ ho)) hb
    (fun o _ => by cases o <;> rfl) ?_ h.queue)
  obtain ⟨hpa, hpb⟩ := hpast
  have hturn := h.inTurn a ha
  rw [hsame]
  revert hturn
  cases a.owner with
  | hold i => rintro ⟨e, he, hstate⟩; exact ⟨e, he, by rw [hstate, if_neg hpa, if_neg hpb]⟩
  | survey => exact fun hturn => hturn.imp id fun hb => ⟨hb.1, hpb⟩
  | _ => exact id

/-- A beacon out of attempt is due (R51, R52, R54). -/
theorem Owners.beaconDue (h : Owners s) (r : Millis) (hb : ∀ r', s.beacon ≠ .inAttempt r') :
    Owners { s with beacon := .due r } := by
  refine h.still .beacon rfl (fun o ho => ?_) hb nofun h.queue
  cases o with
  | beacon => exact absurd rfl ho
  | _ => exact rfl

/-- A beacon in attempt stays so as the next replaces it (R54). -/
theorem Owners.beaconReplaced {r : Millis} (h : Owners s) (r' : Millis) (hb : s.beacon = .inAttempt r) :
    Owners { s with beacon := .inAttempt r' } := by
  obtain ⟨a, ha, ho⟩ : ∃ a, s.tx = some a ∧ a.owner = .beacon := by
    by_contra hnone
    exact h.resting .beacon (fun a ha ho => hnone ⟨a, ha, ho⟩) r hb
  refine .taken (s := s) (b := a) (fun o => h.others_resting ha) ha (fun o hne => ?_) ?_ h.queue
  · rw [ho] at hne
    cases o with
    | beacon => exact absurd rfl hne
    | _ => exact rfl
  · rw [ho]
    exact ⟨r', rfl⟩

/-- A HUSH head in BACKOFF stands again (R112). -/
theorem Owners.hushStands {d : Millis} (h : Owners s) (hh : s.hushHead = .backoff d) :
    Owners { s with hushHead := .standing } := by
  refine h.still .hush rfl (fun o ho => ?_) (fun hin => by cases hh.symm.trans hin) nofun fun _ => rfl
  cases o with
  | hush => exact absurd rfl ho
  | _ => exact rfl

/-- A survey frame out of attempt is due (R174, R175). -/
theorem Owners.surveyDue (h : Owners s) (record : BurstRecord) (hb : s.burst ≠ .inAttempt ∧ s.burst ≠ .ending) :
    Owners { s with burst := .due, burstRec := record } := by
  refine h.still .survey rfl (fun o ho => ?_) hb ⟨nofun, nofun⟩ h.queue
  cases o with
  | survey => exact absurd rfl ho
  | _ => exact rfl

end Cancelled

/-- Every effect leaves the attempt in progress and the owners' records in agreement. -/
theorem Effect.owners {s u : State} (hs : StartLaw s) (ho : Owners s) (h : Effect s u) : Owners u := by
  induction h with
  | aside h _ => exact h.owners ho
  | answered _ bytes ih => exact (Background.answer _ bytes).owners ih
  | reset => exact (atReset_resetBlocks s).owners
  | loading _ h _ => exact h.owners (ho.of_same ⟨rfl, rfl, rfl, rfl, rfl, rfl⟩)
  | @accepted bytes _ hload =>
    exact (Background.acceptBytes s bytes).owners ((hs.atReset_of_load hload).owners_acceptRecord _)
  | cleared => exact (atReset_resetBlocks s).owners.of_same ⟨rfl, rfl, rfl, rfl, rfl, rfl⟩
  | restarted hr => exact (Background.settle _).owners ((atReset_resetBlocks s).owners_acceptRecord _)
  | judgedBusy rx => exact (ho.of_same (u := { s with rx := rx }) ⟨rfl, rfl, rfl, rfl, rfl, rfl⟩).judgeBusy.finish
  | discarded hf => exact ho.of_same ⟨rfl, rfl, rfl, rfl, rfl, rfl⟩
  | beaconTaken _ _ => exact (((offAir_takeGood s).trans (offAir_takeBeacon ..)).owners ho).finish
  | carryTaken _ =>
    exact ((((offAir_takeGood s).trans (offAir_takeMargin ..)).trans (offAir_takeCarry ..)).owners ho).finish
  | hushTaken h levels =>
    exact ((((offAir_takeGood s).trans (offAir_takeMargin ..)).trans (offAir_takeHush ..)).owners ho).finish
  | surveyTaken h levels => exact (((offAir_takeGood s).trans (offAir_takeSurvey ..)).owners ho).finish
  | clear ha hp => exact ho.clearChannel ha hp
  | phase ha hb hsame hpast h _ => exact ho.phase ha hb hsame hpast h
  | sent ha _ => exact (ho.endBody ha).finish
  | missed hn => exact (Background.settle _).owners ((offAir_missBeacon s _ _).owners ho)
  | beaconDue r hb => exact (ho.beaconDue r hb.2).finish
  | beaconReplaced r' hb => exact ho.beaconReplaced r' hb
  | holdExpired he hstate => exact (ho.expireHold he hstate).finish
  | echoExpired he hstate => exact (Background.settle _).owners ((offAir_expireEcho he hstate).owners ho)
  | hushStands hh => exact (ho.hushStands hh).finish
  | surveyDue record hb => exact (ho.surveyDue record hb).finish
  | submitted hnone goal hops => exact (Background.settle _).owners ((offAir_acceptSubmit hnone goal hops).owners ho)
  | slotRead k n => exact ho.of_same ⟨rfl, rfl, rfl, rfl, rfl, rfl⟩
  | released hring => exact ho.of_same ⟨rfl, rfl, rfl, rfl, rfl, rfl⟩
  | statsCleared => exact ho.of_same ⟨rfl, rfl, rfl, rfl, rfl, rfl⟩
  | tallyCleared => exact ho.of_same ⟨rfl, rfl, rfl, rfl, rfl, rfl⟩
  | silenced _ => exact (Background.settle _).owners ho.silenced
  | resumed _ => exact (ho.of_same (u := { s with station := .running }) ⟨rfl, rfl, rfl, rfl, rfl, rfl⟩).finish
  | surveyStopped => exact (ho.cancelSurvey.1.endBurst ho.cancelSurvey.2).finish

theorem step_keeps_owners : Kept fun s => StartLaw s ∧ Owners s :=
  kept_of_effects_with_start (fun _ _ h ho => h.owners ho) fun _ _ hs ho h => h.owners hs ho

theorem step_keeps_ownerLaw : Kept OwnerLaw := fun s u hs h =>
  (ownerLaw_iff u).2 (step_keeps_owners s u ((ownerLaw_iff s).1 hs) h)

end Sys2Proof.Machine
end

section
namespace Sys2Proof.Machine

/-! ### Attempts and defers of a hold entry (R89, R93, R94, R97) -/

/-- The limits of a hold entry under a record. -/
def Hold.Within (cfg : Record) (e : Hold) : Prop :=
  e.attempts ≤ cfg.retryLimit + 1 ∧ e.defers < 15
    ∧ (e.state = .holding ∨ e.state = .ready ∨ e.state = .assessing → e.attempts ≤ cfg.retryLimit)
    ∧ (e.state = .awaitingEcho → e.goal.discipline = .upward)
    ∧ (e.state = .sending ∨ e.state = .awaitingEcho → e.goal.discipline = .upward → e.transmitRank.isSome)

/-- Every hold entry is within its limits. -/
def HoldLimits (s : State) : Prop := ∀ (i : Fin 16) (e : Hold), s.hold[i] = some e → e.Within s.cfg

theorem holdLaw_iff (s : State) : HoldLaw s ↔ OwnerLaw s ∧ HoldLimits s := by
  simp only [HoldLaw, HoldLimits, State.mem_holds, Hold.Within]
  exact ⟨fun ⟨ho, h⟩ => ⟨ho, fun i e he => h e ⟨i, he⟩⟩, fun ⟨ho, h⟩ => ⟨ho, fun e ⟨i, he⟩ => h i e he⟩⟩

/-- An entry in HOLDING or READY has attempts and defers to keep. -/
theorem Hold.within_waiting {cfg : Record} {e : Hold} (hstate : e.state = .holding ∨ e.state = .ready)
    (hattempts : e.attempts ≤ cfg.retryLimit) (hdefers : e.defers < 15) : e.Within cfg := by
  refine ⟨by omega, hdefers, fun _ => hattempts, fun h => ?_, fun h => ?_⟩ <;>
  rcases hstate with hstate | hstate <;> simp [hstate] at h

section Change

variable {s u : State}

/-- Every entry was there before, or is within its limits. -/
theorem HoldLimits.of_places (h : HoldLimits s) (hrecord : u.record = s.record)
    (hplaces : ∀ (i : Fin 16) (f : Hold), u.hold[i] = some f → s.hold[i] = some f ∨ f.Within s.cfg) : HoldLimits u := by
  intro i f hf
  rw [State.cfg, hrecord]
  exact (hplaces i f hf).elim (h i f) id

theorem HoldLimits.of_same (h : HoldLimits s) (hu : u.record = s.record ∧ u.hold = s.hold) : HoldLimits u :=
  h.of_places hu.1 fun i f hf => .inl (by rwa [← hu.2])

/-- One place is written, with an entry within its limits or none. -/
theorem HoldLimits.of_place (h : HoldLimits s) (i : Fin 16) {o : Option Hold}
    (hu : u.record = s.record ∧ u.hold = setAt s.hold i o) (ho : ∀ f, o = some f → f.Within s.cfg) : HoldLimits u := by
  refine h.of_places hu.1 fun j f hf => ?_
  rw [hu.2, setAt_get] at hf
  split at hf
  · exact .inr (ho f hf)
  · exact .inl hf

/-- Off the air what waits again keeps its defers. -/
theorem OffAir.holdLimits (h : OffAir s u) (hs : HoldLimits s) : HoldLimits u := by
  refine hs.of_places h.record fun i f hf => ?_
  rcases h.hold i with hsame | ⟨-, hnew⟩
  · exact .inl (hsame ▸ hf)
  · obtain ⟨hstate, hattempts, hdefers⟩ := hnew f hf
    refine .inr (Hold.within_waiting (.inl hstate) hattempts ?_)
    rcases hdefers with hdefers | ⟨e, he, hdefers⟩
    · omega
    · obtain ⟨-, hlimit, -⟩ := hs i e he
      omega

theorem Background.holdLimits (h : Background s u) (hs : HoldLimits s) : HoldLimits u := h.offAir.holdLimits hs

end Change

section Attempt

variable {s : State}

theorem SameRecord.entry {u : State} {i : Fin 16} {f : Hold} (h : SameRecord s u (.hold i)) (hf : u.hold[i] = some f) :
    s.hold[i] = some f := (Eq.symm h).trans hf

/-- An entry removed leaves the others' limits (R75). -/
theorem HoldLimits.removeHold (h : HoldLimits s) (i : Fin 16) (k : Ending) : HoldLimits (s.removeHold i k) :=
  h.of_places (by simp) fun _ _ hf => .inl (State.removeHold_hold_some hf)

/-- A READY entry granted is ASSESSING with its attempts and defers (R15). -/
theorem HoldLimits.granted {o : Owner} (h : HoldLimits s) (ho : s.Stands o) : HoldLimits (s.granted o) := by
  have hrecord : (s.granted o).record = s.record := by rw [State.granted_frame]
  cases o with
  | hold i =>
    obtain ⟨e, he, hready⟩ := ho
    refine h.of_place i ⟨hrecord, State.granted_hold he⟩ fun f hf => ?_
    cases hf
    obtain ⟨hattempts, hdefers, hwaiting, -⟩ := h i e he
    exact ⟨hattempts, hdefers, fun _ => hwaiting (.inr (.inl hready)), nofun, nofun⟩
  | _ => exact h.of_places hrecord fun i f hf => .inl (SameRecord.entry (s.granted_sameRecord (by simp)) hf)

/-- A deferral counts, and below 15 the entry waits again (R93). -/
theorem HoldLimits.deferOwner {a : Attempt} (h : HoldLimits s) (ho : Owners s) (ha : s.tx = some a)
    (hp : a.phase = .assessing) : HoldLimits (s.deferOwner a.owner) := by
  have hturn := ho.inTurn a ha
  revert hturn
  cases a.owner with
  | hold i =>
    rintro ⟨e, he, hstate⟩
    rw [if_pos hp] at hstate
    obtain ⟨o, hhold, hnew⟩ := s.deferOwner_hold i
    refine h.of_place i ⟨by simp, hhold⟩ fun f hf => ?_
    obtain ⟨hholding, e', he', hattempts, hdefers, hmore⟩ := hnew f hf
    rw [he] at he'
    cases he'
    obtain ⟨-, -, hwaiting, -⟩ := h i e he
    exact Hold.within_waiting (.inl hholding) (hattempts ▸ hwaiting (.inr (.inr hstate))) (hdefers ▸ hmore)
  | beacon | hush | survey =>
    exact fun _ => h.of_places (by simp) fun j f hf => .inl (SameRecord.entry (s.deferOwner_sameRecord (by simp)) hf)

theorem HoldLimits.grant {o : Owner} (h : HoldLimits s) (ho : Owners s) (htx : s.tx = none) (hstands : s.Stands o) :
    HoldLimits (s.grant o) := by
  cases hrx : s.rx.busy with
  | false => rw [State.grant_of_idle hrx]; exact h.granted hstands
  | true =>
    rw [State.grant_of_busy hrx]
    exact (h.granted hstands).deferOwner (a := ⟨o, s.grantRate o, .assessing, s.now + 96 * s.cfg.ccaMs⟩)
      (ho.granted htx hstands) rfl rfl

theorem HoldLimits.finish (h : HoldLimits s) (ho : Owners s) : HoldLimits s.finish :=
  (Background.settle _).holdLimits (State.arbitrateUpTo_induct (P := fun u => Owners u ∧ HoldLimits u)
    (fun _ _ hu _ htx hnext => ⟨hu.1.grant htx (State.nextRequest_some hnext),
      hu.2.grant hu.1 htx (State.nextRequest_some hnext)⟩) 19 s ⟨ho, h⟩).2

theorem HoldLimits.judgeBusy (h : HoldLimits s) (ho : Owners s) : HoldLimits s.judgeBusy := by
  unfold State.judgeBusy
  split
  · next a ha =>
    split
    · next hp => exact h.deferOwner ho ha hp
    · exact h
  · exact h

/-- "clear" counts the attempt, and fixes the transmit rank of an UPWARD entry (R94). -/
theorem HoldLimits.clearChannel {a : Attempt} (h : HoldLimits s) (ho : Owners s) (ha : s.tx = some a)
    (hp : a.phase = .assessing) : HoldLimits (s.clearChannel a) := by
  have hturn := ho.inTurn a ha
  cases howner : a.owner with
  | hold i =>
    rw [howner] at hturn
    obtain ⟨e, he, hstate⟩ := hturn
    rw [if_pos hp] at hstate
    obtain ⟨-, hdefers, hwaiting, -⟩ := h i e he
    have hattempts := hwaiting (.inr (.inr hstate))
    refine h.of_place i (o := some { e with
      state := .sending, attempts := e.attempts + 1, transmitRank := s.clearRank e }) ⟨by simp [State.clearChannel], ?_⟩
      fun f hf => ?_
    · simp only [State.clearChannel, howner, State.ownerClear, he]
      rfl
    · cases hf
      refine ⟨Nat.succ_le_succ hattempts, hdefers, nofun, nofun, fun _ hupward => ?_⟩
      cases hgoal : e.goal with
      | upward g => simp [State.clearRank, hgoal]
      | spread z => simp [hgoal, Goal.discipline] at hupward
  | _ => exact h.of_same ⟨by simp [State.clearChannel], by simp [State.clearChannel, State.ownerClear, howner]⟩

/-- "sent" lets an UPWARD entry wait for its echo (R96). -/
theorem HoldLimits.endBody {a : Attempt} (h : HoldLimits s) (ho : Owners s) (ha : s.tx = some a)
    (hp : a.phase = .body) : HoldLimits (s.endBody a) := by
  have hreleased : HoldLimits s.released := h.of_same ⟨rfl, rfl⟩
  have hturn := ho.inTurn a ha
  rw [State.endBody_eq]
  revert hturn
  cases a.owner with
  | hold i =>
    rintro ⟨e, he, hstate⟩
    rw [hp, if_neg (by decide)] at hstate
    show HoldLimits (s.released.holdSent i)
    have hentry : s.released.hold[i] = some e := he
    unfold State.holdSent
    rw [hentry]
    dsimp only
    split
    · split
      · exact hreleased.removeHold i _
      · next g hgoal =>
        refine hreleased.of_place i ⟨rfl, rfl⟩ fun f hf => ?_
        cases hf
        obtain ⟨hattempts, hdefers, -, -, hrank⟩ := h i e he
        have hupward : e.goal.discipline = .upward := by rw [hgoal]; rfl
        exact ⟨hattempts, hdefers, nofun, fun _ => hupward, fun _ => hrank (.inl hstate)⟩
    · exact hreleased.removeHold i _
  | beacon | hush | survey =>
    exact fun _ => hreleased.of_same ⟨by simp, by simp [State.ownerSent, State.beaconSent, State.hushSent]⟩

/-- A recheck lets the entry be READY, or ends it (R91). -/
theorem HoldLimits.expireHold {i : Fin 16} {e : Hold} (h : HoldLimits s) (he : s.hold[i] = some e)
    (hstate : e.state = .holding) : HoldLimits (s.expireHold i e) := by
  unfold State.expireHold
  split
  · exact h.removeHold i _
  · refine h.of_place i ⟨rfl, rfl⟩ fun f hf => ?_
    cases hf
    obtain ⟨-, hdefers, hwaiting, -⟩ := h i e he
    exact Hold.within_waiting (.inr rfl) (hwaiting (.inl hstate)) hdefers

/-- SILENCE leaves entries as they are, or removes them (R100). -/
theorem HoldLimits.silenced (h : HoldLimits s) : HoldLimits s.silenced := by
  refine h.of_places (by simp [State.silenced]) fun i f hf => .inl ?_
  have hhold : s.silenced.hold = (State.cancelAttempt { s with station := .silent }).silenceHolds.hold := by
    simp [State.silenced]
  rw [hhold, State.silenceHolds_hold, Option.filter_eq_some_iff] at hf
  simpa using hf.1

/-- At reset values no entry is held (R181). -/
theorem AtReset.holdLimits (h : AtReset s) {u : State} (hu : u.hold = s.hold) : HoldLimits u := by
  obtain ⟨-, -, -, -, -, -, -, -, -, -, -, hhold, -⟩ := h
  intro i e he
  simp [hu, hhold] at he

end Attempt

/-- Every effect leaves the hold entries within their limits. -/
theorem Effect.holdLimits {s u : State} (hs : StartLaw s) (ho : Owners s) (hl : HoldLimits s) (h : Effect s u) :
    HoldLimits u := by
  induction h with
  | aside h _ => exact h.holdLimits hl
  | answered _ bytes ih => exact (Background.answer _ bytes).holdLimits ih
  | reset => exact (atReset_resetBlocks s).holdLimits rfl
  | loading _ h _ => exact h.holdLimits (hl.of_same ⟨rfl, rfl⟩)
  | @accepted bytes _ hload =>
    exact (Background.acceptBytes s bytes).holdLimits ((hs.atReset_of_load hload).holdLimits rfl)
  | cleared => exact (atReset_resetBlocks s).holdLimits rfl
  | restarted hr => exact (atReset_resetBlocks s).holdLimits rfl
  | judgedBusy rx =>
    have hrx : Owners { s with rx := rx } := ho.of_same ⟨rfl, rfl, rfl, rfl, rfl, rfl⟩
    exact ((hl.of_same (u := { s with rx := rx }) ⟨rfl, rfl⟩).judgeBusy hrx).finish hrx.judgeBusy
  | discarded hf => exact hl.of_same ⟨rfl, rfl⟩
  | @beaconTaken h _ levels _ _ =>
    have hoff := (offAir_takeGood s).trans (offAir_takeBeacon s.takeGood h (marginOf levels))
    exact (hoff.holdLimits hl).finish (hoff.owners ho)
  | @carryTaken h p _ levels _ =>
    have hoff := ((offAir_takeGood s).trans (offAir_takeMargin _ h.sender (marginOf levels))).trans
        (offAir_takeCarry _ h p)
    exact (hoff.holdLimits hl).finish (hoff.owners ho)
  | hushTaken h levels =>
    have hoff := ((offAir_takeGood s).trans (offAir_takeMargin _ h.sender (marginOf levels))).trans
        (offAir_takeHush _ h)
    exact (hoff.holdLimits hl).finish (hoff.owners ho)
  | surveyTaken h levels =>
    have hoff := (offAir_takeGood s).trans (offAir_takeSurvey s.takeGood h (marginOf levels))
    exact (hoff.holdLimits hl).finish (hoff.owners ho)
  | clear ha hp => exact hl.clearChannel ho ha hp
  | phase ha hb hsame hpast h _ => exact h.holdLimits (hl.of_same ⟨rfl, rfl⟩)
  | sent ha hp => exact (hl.endBody ho ha hp).finish (ho.endBody ha)
  | missed hn => exact (Background.settle _).holdLimits ((offAir_missBeacon s _ _).holdLimits hl)
  | beaconDue r hb => exact (hl.of_same (u := { s with beacon := .due r }) ⟨rfl, rfl⟩).finish (ho.beaconDue r hb.2)
  | beaconReplaced r' hb => exact hl.of_same ⟨rfl, rfl⟩
  | holdExpired he hstate => exact (hl.expireHold he hstate).finish (ho.expireHold he hstate)
  | echoExpired he hstate => exact (Background.settle _).holdLimits ((offAir_expireEcho he hstate).holdLimits hl)
  | hushStands hh => exact (hl.of_same (u := { s with hushHead := .standing }) ⟨rfl, rfl⟩).finish (ho.hushStands hh)
  | surveyDue record hb =>
    exact (hl.of_same (u := { s with burst := .due, burstRec := record }) ⟨rfl, rfl⟩).finish (ho.surveyDue record hb)
  | submitted hnone goal hops =>
    exact (Background.settle _).holdLimits ((offAir_acceptSubmit hnone goal hops).holdLimits hl)
  | slotRead k n => exact hl.of_same ⟨rfl, rfl⟩
  | released hring => exact hl.of_same ⟨rfl, rfl⟩
  | statsCleared => exact hl.of_same ⟨rfl, rfl⟩
  | tallyCleared => exact hl.of_same ⟨rfl, rfl⟩
  | silenced _ => exact (Background.settle _).holdLimits hl.silenced
  | resumed _ =>
    exact (hl.of_same (u := { s with station := .running }) ⟨rfl, rfl⟩).finish
      (ho.of_same ⟨rfl, rfl, rfl, rfl, rfl, rfl⟩)
  | surveyStopped =>
    obtain ⟨hcancelled, hpast⟩ := ho.cancelSurvey
    exact (hl.of_same (u := s.cancelSurvey.endBurst) (by simp)).finish (hcancelled.endBurst hpast)

theorem step_keeps_holdLaw : Kept HoldLaw := by
  have hkept : Kept fun s => StartLaw s ∧ (Owners s ∧ HoldLimits s) :=
    kept_of_effects_with_start (fun _ _ h hP => ⟨h.owners hP.1, h.holdLimits hP.2⟩)
      fun _ _ hs hP h => ⟨h.owners hs hP.1, h.holdLimits hs hP.1 hP.2⟩
  intro s u hs h
  obtain ⟨howner, hlimits⟩ := (holdLaw_iff s).1 hs
  obtain ⟨hstart, howners⟩ := (ownerLaw_iff s).1 howner
  obtain ⟨hstart', howners', hlimits'⟩ := hkept s u ⟨hstart, howners, hlimits⟩ h
  exact (holdLaw_iff u).2 ⟨(ownerLaw_iff u).2 ⟨hstart', howners'⟩, hlimits'⟩

/-- Settles O59: an event changes the record of one owner, the one whose attempt begins, goes on or ends. -/
theorem ownerAndHoldLawsAreKept : Obligations.OwnerAndHoldLawsAreKept := ⟨step_keeps_ownerLaw, step_keeps_holdLaw⟩

end Sys2Proof.Machine
end

section
namespace Sys2Proof.Machine

/-! ### Timers that do not expire (R32, R70, R74, R103) -/

/-- No phase is over that has not come to its end (R17). -/
theorem State.phaseOver_early {s : State} {p : Phase} (h : ∀ a, s.tx = some a → a.phase = p → s.now < a.ends) :
    s.phaseOver p = none := by
  cases ho : s.phaseOver p with
  | none => rfl
  | some a =>
    obtain ⟨ha, hp, hends⟩ := State.phaseOver_eq_some.1 ho
    exact absurd hends (Nat.not_le.2 (h a ha hp))

/-- An event that does not occur is nothing but the time (log 2). -/
theorem nothing_occurs {s u : State} {p : Prop} [Decidable p] (h : ¬p) :
    (if p then Host.Outcome.next u else .next s : Host.Outcome State Fault Refusal) = .next s := if_neg h

section Early

variable (t : Time) (s : State)

theorem beacon_expires_early :
    ((∀ d, s.beacon = .waiting d → max s.now t / 96 < d) →
        exec (.beaconDueExpiry t) s = .next (s.advance t))
      ∧ ((∀ d r, s.beacon = .backoff d r → max s.now t / 96 < d) →
        exec (.beaconBackoffExpiry t) s = .next (s.advance t))
      ∧ ((∀ r, s.beacon = .due r ∨ (∃ d, s.beacon = .backoff d r) ∨ s.beacon = .inAttempt r → max s.now t / 96 < r) →
        exec (.beaconReplacementExpiry t) s = .next (s.advance t)) := by
  simp only [exec, execBeaconDueExpiry, execBeaconBackoffExpiry, execBeaconReplacementExpiry, State.advance_beacon]
  cases hb : s.beacon with
  | stopped => exact ⟨fun _ => rfl, fun _ => rfl, fun _ => rfl⟩
  | waiting d => exact ⟨fun h => nothing_occurs (Nat.not_le.2 (h d rfl)), fun _ => rfl, fun _ => rfl⟩
  | due r => exact ⟨fun _ => rfl, fun _ => rfl, fun h => nothing_occurs (Nat.not_le.2 (h r (.inl rfl)))⟩
  | backoff d r =>
    exact ⟨fun _ => rfl, fun h => nothing_occurs (Nat.not_le.2 (h d r rfl)),
      fun h => nothing_occurs (Nat.not_le.2 (h r (.inr (.inl ⟨d, rfl⟩))))⟩
  | inAttempt r => exact ⟨fun _ => rfl, fun _ => rfl, fun h => nothing_occurs (Nat.not_le.2 (h r (.inr (.inr rfl))))⟩

theorem burst_expires_early :
    ((∀ d, s.burst = .waiting d → max s.now t / 96 < d) →
        exec (.surveyIntervalExpiry t) s = .next (s.advance t))
      ∧ ((∀ d, s.burst = .backoff d → max s.now t / 96 < d) →
        exec (.surveyBackoffExpiry t) s = .next (s.advance t)) := by
  simp only [exec, execSurveyIntervalExpiry, execSurveyBackoffExpiry, State.advance_burst]
  cases hb : s.burst with
  | waiting d => exact ⟨fun h => nothing_occurs (Nat.not_le.2 (h d rfl)), fun _ => rfl⟩
  | backoff d => exact ⟨fun _ => rfl, fun h => nothing_occurs (Nat.not_le.2 (h d rfl))⟩
  | stopped | due | inAttempt | ending => exact ⟨fun _ => rfl, fun _ => rfl⟩

theorem hold_expires_early (i : Fin 16) :
    ((∀ e, s.hold[i] = some e → e.state = .holding → max s.now t / 96 < e.deadline) →
        exec (.holdDeadlineExpiry t i) s = .next (s.advance t))
      ∧ ((∀ e, s.hold[i] = some e → e.state = .awaitingEcho → max s.now t / 96 < e.deadline) →
        exec (.echoDeadlineExpiry t i) s = .next (s.advance t)) := by
  simp only [exec, execHoldDeadlineExpiry, execEchoDeadlineExpiry, State.advance_hold]
  cases he : s.hold[i] with
  | none => exact ⟨fun _ => rfl, fun _ => rfl⟩
  | some e =>
    exact ⟨fun h => nothing_occurs fun ho => Nat.not_le.2 (h e rfl ho.1) ho.2,
      fun h => nothing_occurs fun ho => Nat.not_le.2 (h e rfl ho.1) ho.2⟩

theorem neighbour_expires_early (i : Fin 32) (h : ∀ n, s.table[i] = some n → max s.now t / 96 < n.due) :
    exec (.neighbourDueExpiry t i) s = .next (s.advance t) := by
  simp only [exec, execNeighbourDueExpiry, State.advance_table]
  cases hn : s.table[i] with
  | none => rfl
  | some n => exact nothing_occurs (Nat.not_le.2 (h n hn))

theorem hush_expires_early (h : ∀ d, s.hushHead = .backoff d → max s.now t / 96 < d) :
    exec (.hushBackoffExpiry t) s = .next (s.advance t) := by
  simp only [exec, execHushBackoffExpiry, State.advance_hushHead]
  cases hh : s.hushHead with
  | backoff d => exact nothing_occurs (Nat.not_le.2 (h d hh))
  | standing | inAttempt => rfl

theorem stretch_expires_early (h : ∀ d, s.stretch = some d → max s.now t / 96 < d) :
    exec (.stretchExpiry t) s = .next (s.advance t) := by
  simp only [exec, execStretchExpiry, State.advance_stretch]
  cases hd : s.stretch with
  | none => rfl
  | some d => exact nothing_occurs (Nat.not_le.2 (h d hd))

theorem alternation_expires_early (h : ∀ a, s.alternation = some a → max s.now t / 96 < a.deadline) :
    exec (.indicatorAlternation t) s = .next (s.advance t) := by
  simp only [exec, execIndicatorAlternation, State.advance_alternation]
  cases ha : s.alternation with
  | none => rfl
  | some a => exact nothing_occurs (Nat.not_le.2 (h a ha))

theorem load_expires_early (h : ∀ since, s.loader = .polling since → max s.now t / 96 < since + 25) :
    exec (.configLoadTimeout t) s = .next (s.advance t) := by
  simp only [exec, execConfigLoadTimeout, State.advance_loader]
  cases hl : s.loader with
  | polling since => exact nothing_occurs (Nat.not_le.2 (h since hl))
  | held | reading | idle => rfl

theorem phase_ends_early {c : Instr} {p : Phase} (hc : c = .ccaClear t ∧ p = .assessing
      ∨ c = .settlingEnd t ∧ p = .settling ∨ c = .preambleSent t ∧ p = .preamble ∨ c = .bodyEnd t ∧ p = .body)
    (h : ∀ a, s.tx = some a → a.phase = p → max s.now t < a.ends) : exec c s = .next (s.advance t) := by
  have hover : (s.advance t).phaseOver p = none := State.phaseOver_early h
  rcases hc with ⟨rfl, rfl⟩ | ⟨rfl, rfl⟩ | ⟨rfl, rfl⟩ | ⟨rfl, rfl⟩
  · simp only [exec, execCcaClear, hover]
  · simp only [exec, execSettlingEnd, hover]
  · simp only [exec, execPreambleSent, hover]
  · simp only [exec, execBodyEnd, hover]

end Early

/-- Settles O37: each row asks its timer's record, or the attempt, and finds the deadline ahead. -/
theorem noTimerExpiresEarly : Obligations.NoTimerExpiresEarly := by
  intro t s
  obtain ⟨hdue, hbackoff, hreplaced⟩ := beacon_expires_early t s
  obtain ⟨hinterval, hburst⟩ := burst_expires_early t s
  exact ⟨neighbour_expires_early t s, fun i => (hold_expires_early t s i).1, fun i => (hold_expires_early t s i).2,
    hdue,
    hbackoff, hush_expires_early t s, hinterval, hburst, stretch_expires_early t s, hreplaced,
    alternation_expires_early t s, load_expires_early t s, fun _ _ hc h => phase_ends_early t s hc h⟩

/-! ### Hold-offs and hop budgets (R84, R154) -/

/-- With progress the term is at most 63/64 of the span (R84). -/
theorem progressTerm_le {span progress : Nat} (hspan : span ≤ 255) (h : 1 ≤ progress) :
    progressTerm span progress ≤ 251 := by
  have hleft : 64 - min progress 64 ≤ 63 := by omega
  calc progressTerm span progress = (64 - min progress 64) * span / 64 := rfl
    _ ≤ 63 * 255 / 64 := Nat.div_le_div_right (Nat.mul_le_mul hleft hspan)

/-- Settles O25: each term is bounded by the record's range, and clampTo keeps a budget within 1 and MAX_HOPS. -/
theorem holdOffsAndHopBudgets : Obligations.HoldOffsAndHopBudgets := by
  refine ⟨fun r progress draw q hr hprogress hq => ?_, fun maxHops hops hmin hmax => ?_⟩
  · obtain ⟨-, -, -, -, -, -, hspan, hjitter, -⟩ := hr
    have hterm := progressTerm_le hspan hprogress
    have hdraw : draw % (r.jitter + 1) ≤ 15 := by
      exact Nat.le_trans (Nat.le_of_lt_succ (Nat.mod_lt draw (Nat.succ_pos r.jitter))) hjitter
    exact ⟨hterm, hdraw, by omega, by omega, by omega, by omega, rfl⟩
  · unfold submitHops clampTo
    refine ⟨?_, fun _ => by omega, fun _ _ => by omega, by omega, by omega⟩
    rintro rfl
    simp

/-! ### A refused SUBMIT (R153) -/

theorem State.freeSlot_none_iff (s : State) : s.freeSlot = none ↔ ∀ k : Fin 4, s.slots[k] ≠ .free := by
  simp [State.freeSlot, List.find?_eq_none]

theorem State.freeIndex_none_iff (s : State) : s.freeIndex = none ↔ ∀ i : Fin 16, s.hold[i].isSome := by
  simp [State.freeIndex, List.find?_eq_none, Option.isSome_iff_ne_none]

section Refused

variable {d g : Byte} {s : State}

/-- An anchor refuses a message to its own index (R106, R153). -/
theorem submit_home_iff (hg : d = 0 → g.toNat ≤ 3) : (d = 0#8 ∧ s.forOwnIndex (goalOf .upward g) = true)
    ↔ d = 0 ∧ s.cfg.role = .anchor ∧ g.toNat = s.cfg.anchorIndex.1 := by
  refine and_congr_right fun hzero => ?_
  have hmod : g.toNat % 4 = g.toNat := Nat.mod_eq_of_lt (Nat.lt_succ_of_le (hg hzero))
  simp only [State.forOwnIndex_iff, goalOf, Goal.upward.injEq, Fin.ext_iff, hmod]

/-- No route is an own rank of 4095 toward the target (R153). -/
theorem submit_lost_iff (hg : d = 0 → g.toNat ≤ 3) : (d = 0#8 ∧ s.unreachable ⟨g.toNat % 4, by omega⟩ = true)
    ↔ d = 0 ∧ ∃ a : Fin 4, a.1 = g.toNat ∧ s.ranks[a] = 4095 := by
  refine and_congr_right fun hzero => ?_
  have hmod : g.toNat % 4 = g.toNat := Nat.mod_eq_of_lt (Nat.lt_succ_of_le (hg hzero))
  rw [State.unreachable, decide_eq_true_eq]
  constructor
  · exact fun h => ⟨⟨g.toNat % 4, by omega⟩, hmod, h⟩
  · rintro ⟨a, ha, hrank⟩
    have hsame : (⟨g.toNat % 4, by omega⟩ : Fin 4) = a := Fin.ext (hmod.trans ha.symm)
    rw [hsame]
    exact hrank

/-- A refused SUBMIT is answered alone (R153). -/
theorem exec_submit_refused {hops : Byte} {dest : Address} {p : List Byte} {r : Result} (hrun : s.station = .running)
    (t : Time) (h : s.submitRefusal d g dest p.length = some r) :
    exec (.submit t d g dest hops p) s = .next (Claim.answered s t [r.code]) := by
  have hsame : (s.advance t).submitRefusal d g dest p.length = some r := h
  simp only [exec, execSubmit, State.port, State.advance_station, hrun, portRefusal, hsame]
  rfl

end Refused

/-- Settles O42: the checks are gone through in their order, each answered alone. -/
theorem refusedSubmitsTakeNothing : Obligations.RefusedSubmitsTakeNothing := by
  intro t d g dest hops p s hrun bad home lost full short answer
  have refused {r : Result} (h : s.submitRefusal d g dest p.length = some r) : answer r.code :=
    exec_submit_refused hrun t h
  have hplaces : (s.freeSlot = none ∨ s.freeIndex = none) ↔ full := by
    rw [s.freeSlot_none_iff, s.freeIndex_none_iff]
  have target (hbad : ¬bad) : d = 0 → g.toNat ≤ 3 := fun hzero =>
    Nat.le_of_not_lt fun hg => hbad (.inr (.inr (.inl ⟨hzero, hg⟩)))
  refine ⟨fun hbad => refused (if_pos hbad), fun hbad hhome => ?_, fun hbad hhome hlost => ?_,
    fun hbad hhome hlost hfull => ?_, fun hbad hhome hlost hfull hshort => ?_⟩
  · exact refused (r := .badArgument) ((if_neg hbad).trans (if_pos ((submit_home_iff (target hbad)).2 hhome)))
  all_goals have hhome' := (submit_home_iff (target hbad)).not.2 hhome
  · exact refused (r := .noRoute) ((if_neg hbad).trans ((if_neg hhome').trans
      (if_pos ((submit_lost_iff (target hbad)).2 hlost))))
  all_goals have hlost' := (submit_lost_iff (target hbad)).not.2 hlost
  · exact refused (r := .full) ((if_neg hbad).trans ((if_neg hhome').trans ((if_neg hlost').trans
      (if_pos (hplaces.2 hfull)))))
  · exact refused (r := .noBuffer) ((if_neg hbad).trans ((if_neg hhome').trans ((if_neg hlost').trans
      ((if_neg (hplaces.not.2 hfull)).trans (if_pos hshort)))))

/-! ### Arrival and delivery (R76, R80, R144) -/

/-- What an UPWARD copy lacks where no rank leads it on (R80). -/
theorem State.lacksProgress_iff (s : State) (h : CarryHeader) : s.lacksProgress h = true ↔
    ∃ a, carryGoal h = .upward a ∧ (s.ranks[a] = 4095 ∨ h.senderRank ≤ s.ranks[a]) := by
  unfold State.lacksProgress
  cases hgoal : carryGoal h with
  | spread zone => simp
  | upward a =>
    simp only [Goal.upward.injEq, exists_eq_left', State.progress, BitVec.le_def]
    split
    · next hlacks => simpa using hlacks
    · next hleads => simpa using hleads

/-- A zone in use here, or zone 0 (R144). -/
theorem zoneMatches_iff (cfg : Record) (zone : Byte) : zoneMatches cfg zone = true ↔
    zone = 0 ∨ zone = cfg.zone1 ∨ zone = cfg.zone2 ∨ zone = cfg.zone3 ∨ zone = cfg.zone4 := by
  simp [zoneMatches, or_assoc]

theorem State.deliveryTest_iff (s : State) (h : CarryHeader) : s.deliveryTest h = true ↔
    h.discipline = .spread ∧ zoneMatches s.cfg h.target = true ∧ (h.dest = 65535 ∨ h.dest = s.own) := by
  unfold State.deliveryTest carryGoal goalOf
  cases h.discipline with
  | upward => simp
  | spread => simp

/-- Settles O16: the table's checks one after another, and the delivery test. -/
theorem arrivalAndDeliveryChecks : Obligations.ArrivalAndDeliveryChecks := by
  refine ⟨fun s h => ?_, fun s h => ?_⟩
  · intro here stale full short
    have hstale : stale ↔ s.lacksProgress h = true := (s.lacksProgress_iff h).symm
    have hfull : full ↔ s.freeIndex = none := s.freeIndex_none_iff.symm
    rw [hstale, hfull]
    unfold State.arrivalOf
    split
    · next hhere => simp [here, hhere]
    · next hhere =>
      have hnot : ¬here := hhere
      split
      · next hsilent => simp [hnot, hsilent]
      · next hsilent =>
        split
        · next hhops => simp [hnot, hsilent, hhops]
        · next hhops =>
          split
          · next hlacks => simp [hnot, hsilent, hhops, hlacks]
          · next hlacks =>
            split
            · next hindex => simp [hnot, hsilent, hhops, hlacks, hindex]
            · next hindex =>
              split
              · next hroom =>
                have hshort : short := hroom
                simp [hnot, hsilent, hhops, hlacks, hindex, hshort]
              · next hroom =>
                have hshort : ¬short := hroom
                simp [hnot, hsilent, hhops, hlacks, hindex, hshort]
  · rw [s.deliveryTest_iff h, zoneMatches_iff]

end Sys2Proof.Machine
end

section
namespace Sys2Proof.Machine

/-! ### The reset values (section 11.4) -/

/-- The blocks of the state at reset are at their reset values already. -/
theorem reset_resetBlocks : State.reset.resetBlocks = State.reset := rfl

theorem atReset_reset : AtReset State.reset := atReset_resetBlocks State.reset

/-- Settles O3: each law at reset values. -/
theorem resetHasItsValuesAndEveryLaw : Obligations.ResetHasItsValuesAndEveryLaw := by
  have hradio : RadioLaw State.reset := radioLaw_resetBlocks State.reset
  have hstart : StartLaw State.reset := hradio.1
  have howner : OwnerLaw State.reset := (ownerLaw_iff _).2 ⟨hstart, atReset_reset.owners⟩
  refine ⟨⟨atReset_reset, rfl, rfl, rfl, rfl⟩, hstart, ⟨hstart, by decide⟩, ⟨.nil, nofun⟩,
    blockLaw_resetBlocks State.reset, chainLaw_resetBlocks State.reset,
    (tableLaw_iff _).2 ⟨hstart, tableKept_of_empty rfl⟩, ⟨hstart, atReset_reset.ranks_formed⟩,
    seenLaw_resetBlocks State.reset, countLaw_resetBlocks State.reset, ⟨hstart, atReset_reset.adaptKept⟩,
    (slotLaw_iff _).2 (slotsClaimed_resetBlocks State.reset), hradio, ⟨hstart, quiet_of_not_running nofun⟩, howner,
    (holdLaw_iff _).2 ⟨howner, atReset_reset.holdLimits rfl⟩, eventLaw_resetBlocks State.reset⟩

/-! ### Clamped records (R183) -/

/-- A field with a range of its own. -/
theorem fieldAt_clamped (bytes : Nat → Byte) (k lo hi : Nat)
    (h : (fieldRanges.find? fun r => r.1 = k) = some (k, lo, hi)) :
    fieldAt bytes k = max lo (min hi (bytes k).toNat) := by
  simp only [fieldAt, h, clampTo]

/-- Of a field whose range is the byte's the value is the byte. -/
theorem fieldAt_byte (bytes : Nat → Byte) (k : Nat)
    (h : (fieldRanges.find? fun r => r.1 = k) = some (k, 0, 255)) : fieldAt bytes k = (bytes k).toNat := by
  rw [fieldAt_clamped bytes k 0 255 h]
  have := (bytes k).isLt
  omega

section Fields

variable (bytes : Nat → Byte)

/-- A code above the last is taken as the last. -/
theorem indicatorMode_cases : (bytes 36 = 0 → (recordOf bytes).indicatorMode = .off)
    ∧ (bytes 36 = 1 → (recordOf bytes).indicatorMode = .reach)
    ∧ (bytes 36 = 2 → (recordOf bytes).indicatorMode = .activity)
    ∧ (3 ≤ (bytes 36).toNat → (recordOf bytes).indicatorMode = .combined) := by
  have hmode : (recordOf bytes).indicatorMode = indicatorModeOf (max 0 (min 3 (bytes 36).toNat)) :=
    congrArg indicatorModeOf (fieldAt_clamped bytes 36 0 3 (by decide))
  rw [hmode]
  refine ⟨fun h => by rw [h]; rfl, fun h => by rw [h]; rfl, fun h => by rw [h]; rfl, fun h => ?_⟩
  rw [Nat.min_eq_left h]
  rfl

/-- A code above the last is taken as the last. -/
theorem stretch_cases : (bytes 37 = 0 → (recordOf bytes).stretch = 50) ∧ (bytes 37 = 1 → (recordOf bytes).stretch = 100)
    ∧ (bytes 37 = 2 → (recordOf bytes).stretch = 200) ∧ (3 ≤ (bytes 37).toNat → (recordOf bytes).stretch = 400) := by
  have hstretch : (recordOf bytes).stretch = stretchOf (max 0 (min 3 (bytes 37).toNat)) :=
    congrArg stretchOf (fieldAt_clamped bytes 37 0 3 (by decide))
  rw [hstretch]
  refine ⟨fun h => by rw [h]; rfl, fun h => by rw [h]; rfl, fun h => by rw [h]; rfl, fun h => ?_⟩
  rw [Nat.min_eq_left h]
  rfl

theorem recordOf_role : (recordOf bytes).role = if bytes 3 = 0 then .lamp else .anchor := by
  refine if_congr ?_ rfl rfl
  have hzero : bytes 3 = 0 ↔ (bytes 3).toNat = 0 := BitVec.toNat_inj.symm
  rw [fieldAt_clamped bytes 3 0 1 (by decide), hzero]
  omega

theorem recordOf_anchorIndex : (recordOf bytes).anchorIndex.1 = max 0 (min 3 (bytes 4).toNat) := by
  show fieldAt bytes 4 % 4 = _
  rw [fieldAt_clamped bytes 4 0 3 (by decide), Nat.mod_eq_of_lt (by omega)]

theorem recordOf_maxRate : rateCode (recordOf bytes).maxRate = max 0 (min 2 (bytes 23).toNat) := by
  show rateCode (rateOf (fieldAt bytes 23)) = _
  rw [fieldAt_clamped bytes 23 0 2 (by decide), rateCode_rateOf (by omega)]

theorem recordOf_startRate : rateCode (recordOf bytes).startRate
    = min (max 0 (min 2 (bytes 22).toNat)) (max 0 (min 2 (bytes 23).toNat)) := by
  show rateCode (rateOf (min (fieldAt bytes 22) (fieldAt bytes 23))) = _
  rw [fieldAt_clamped bytes 22 0 2 (by decide), fieldAt_clamped bytes 23 0 2 (by decide), rateCode_rateOf (by omega)]

theorem recordOf_powerFloor : (recordOf bytes).powerFloor = min (bytes 26).toNat (bytes 27).toNat := by
  show min (fieldAt bytes 26) (fieldAt bytes 27) = _
  rw [fieldAt_byte bytes 26 (by decide), fieldAt_byte bytes 27 (by decide)]

theorem recordOf_sparseBelow : (recordOf bytes).sparseBelow
    = min (max 0 (min 31 (bytes 30).toNat)) (max 2 (min 32 (bytes 29).toNat) - 1) := by
  show min (fieldAt bytes 30) (fieldAt bytes 29 - 1) = _
  rw [fieldAt_clamped bytes 30 0 31 (by decide), fieldAt_clamped bytes 29 2 32 (by decide)]

end Fields

/-- Whether a clamp changes the field at an offset (R183). -/
def clampCounts (bytes : Nat → Byte) (k lo hi : Nat) : Nat :=
  if max lo (min hi (bytes k).toNat) = (bytes k).toNat then 0 else 1

/-- A field is counted where its clamp changes it. -/
theorem counted_eq_clampCounts (bytes : Nat → Byte) (k lo hi : Nat)
    (h : (fieldRanges.find? fun r => r.1 = k) = some (k, lo, hi)) :
    (if decide (fieldAt bytes k ≠ (bytes k).toNat) = true then 1 else 0) = clampCounts bytes k lo hi := by
  simp only [fieldAt_clamped bytes k lo hi h, clampCounts, decide_eq_true_eq, ite_not]

/-- The fields that clamps change, one by one. -/
theorem clampedFields_eq (bytes : Nat → Byte) : (fieldRanges.countP fun r => fieldAt bytes r.1 ≠ (bytes r.1).toNat)
    = (fieldRanges.map fun r => clampCounts bytes r.1 r.2.1 r.2.2).sum := by
  have hcount (l : List (Nat × Nat × Nat))
      (hl : ∀ r ∈ l, (fieldRanges.find? fun q => q.1 = r.1) = some (r.1, r.2.1, r.2.2)) :
      (l.countP fun r => fieldAt bytes r.1 ≠ (bytes r.1).toNat)
        = (l.map fun r => clampCounts bytes r.1 r.2.1 r.2.2).sum := by
    induction l with
    | nil => rfl
    | cons r l ih =>
      rw [List.countP_cons, List.map_cons, List.sum_cons, ih fun q hq => hl q (List.mem_cons_of_mem r hq),
        counted_eq_clampCounts bytes _ _ _ (hl r List.mem_cons_self), Nat.add_comm]
  exact hcount fieldRanges (by decide)

/-- A clamp to the byte's range changes nothing. -/
theorem clampCounts_byte (bytes : Nat → Byte) (k : Nat) : clampCounts bytes k 0 255 = 0 := by
  have := (bytes k).isLt
  exact if_pos (by omega)

/-- Settles O8: one lemma says what a clamp makes of a field; a field whose range is the byte's is never counted. -/
theorem recordsAreClampedIntoRange : Obligations.RecordsAreClampedIntoRange := by
  refine ⟨fun bytes h => recordOf_inRange h, fun bytes => ?_, fun bytes => ?_⟩
  · have field := fieldAt_clamped bytes
    obtain ⟨hoff, hreach, hactivity, hcombined⟩ := indicatorMode_cases bytes
    obtain ⟨h50, h100, h200, h400⟩ := stretch_cases bytes
    exact ⟨rfl, recordOf_role bytes, recordOf_anchorIndex bytes, rfl, rfl, rfl, rfl, field 9 2 60 (by decide),
      field 10 1 7 (by decide), field 11 2 15 (by decide), field 12 0 30 (by decide), field 13 1 31 (by decide),
      fieldAt_byte bytes 14 (by decide), field 15 0 15 (by decide), field 16 1 7 (by decide), field 17 0 3 (by decide),
      field 18 1 31 (by decide), field 19 1 8 (by decide), field 20 0 63 (by decide), field 21 1 15 (by decide),
      recordOf_maxRate bytes, recordOf_startRate bytes, field 24 2 7 (by decide), field 25 4 31 (by decide),
      fieldAt_byte bytes 27 (by decide), recordOf_powerFloor bytes, field 28 1 32 (by decide),
      field 29 2 32 (by decide),
      recordOf_sparseBelow bytes, rfl, rfl, rfl, hoff, hreach, hactivity, hcombined, h50, h100, h200, h400⟩
  · intro clamped changed
    have field := fieldAt_clamped bytes
    have hclamped (k lo hi : Nat) : clamped k lo hi = max lo (min hi (bytes k).toNat) := rfl
    have hchanged (k lo hi : Nat) : changed k lo hi = clampCounts bytes k lo hi := rfl
    rw [clampCount, clampedFields_eq, fieldAt_byte bytes 26 (by decide), fieldAt_byte bytes 27 (by decide),
      field 29 2 32 (by decide), field 30 0 31 (by decide), field 22 0 2 (by decide), field 23 0 2 (by decide)]
    simp only [fieldRanges, List.cons_append, List.nil_append, List.map_cons, List.map_nil, List.sum_cons, List.sum_nil,
      clampCounts_byte, hclamped, hchanged]
    omega

end Sys2Proof.Machine
end

section
namespace Sys2Proof.Machine

/-! ### The jitter generator's period (R20)

A step is linear over bits, so 256 steps are one linear map that is known from what it does to bit 15. With it the runs
that decide the period are short. -/

/-- A map that keeps exclusive or. -/
def KeepsXor (f : BitVec 16 → BitVec 16) : Prop := ∀ x y, f (x ^^^ y) = f x ^^^ f y

/-- A value where a bit is set, and 0 where it is not. -/
def whereSet (b : Bool) (v : BitVec 16) : BitVec 16 := if b then v else 0

theorem whereSet_xor (a b : Bool) (v : BitVec 16) : whereSet (a ^^ b) v = whereSet a v ^^^ whereSet b v := by
  cases a <;> cases b <;> simp [whereSet]

theorem xor_xor_xor_comm (a b c d : BitVec 16) : (a ^^^ b) ^^^ (c ^^^ d) = (a ^^^ c) ^^^ (b ^^^ d) := by ac_rfl

theorem jitterStep_eq (x : BitVec 16) : jitterStep x = whereSet (x.getLsbD 0) 0xB400 ^^^ x >>> 1 := by
  unfold jitterStep whereSet
  split
  · exact BitVec.xor_comm ..
  · exact BitVec.zero_xor.symm

theorem jitterStep_keepsXor : KeepsXor jitterStep := by
  intro x y
  rw [jitterStep_eq, jitterStep_eq, jitterStep_eq, BitVec.getLsbD_xor, BitVec.ushiftRight_xor_distrib, whereSet_xor,
    xor_xor_xor_comm]

theorem KeepsXor.iterate {f : BitVec 16 → BitVec 16} (hf : KeepsXor f) (n : Nat) : KeepsXor f^[n] := by
  induction n with
  | zero => exact fun _ _ => rfl
  | succ n ih => exact fun x y => by rw [Function.iterate_succ_apply', ih, hf, ← Function.iterate_succ_apply' f n x,
      ← Function.iterate_succ_apply' f n y]

theorem KeepsXor.zero {f : BitVec 16 → BitVec 16} (hf : KeepsXor f) : f 0 = 0 := by
  have h := hf 0 0
  rwa [BitVec.xor_self, BitVec.xor_self] at h

/-- Such a map is known from what it does to each bit. -/
theorem KeepsXor.ext {f g : BitVec 16 → BitVec 16} (hf : KeepsXor f) (hg : KeepsXor g)
    (h : ∀ i < 16, f (BitVec.twoPow 16 i) = g (BitVec.twoPow 16 i)) (x : BitVec 16) : f x = g x := by
  suffices hbits : ∀ n ≤ 16, ∀ y : BitVec 16, (∀ j, n ≤ j → y.getLsbD j = false) → f y = g y from
    hbits 16 (Nat.le_refl 16) x fun j hj => BitVec.getLsbD_of_ge x j hj
  intro n
  induction n with
  | zero =>
    intro _ y hy
    have hzero : y = 0 := BitVec.eq_of_getLsbD_eq fun j _ => by simpa using hy j (Nat.zero_le j)
    rw [hzero, hf.zero, hg.zero]
  | succ n ih =>
    intro hn y hy
    by_cases hbit : y.getLsbD n
    · have hrest : f (y ^^^ BitVec.twoPow 16 n) = g (y ^^^ BitVec.twoPow 16 n) := by
        refine ih (by omega) _ fun j hj => ?_
        rw [BitVec.getLsbD_xor, BitVec.getLsbD_twoPow]
        rcases eq_or_lt_of_le hj with rfl | hlt
        · have hlow : n < 16 := by omega
          simp [hbit, hlow]
        · have hne : ¬n = j := by omega
          simp [hy j (by omega), hne]
      have hsplit : y = (y ^^^ BitVec.twoPow 16 n) ^^^ BitVec.twoPow 16 n := by
        rw [BitVec.xor_assoc, BitVec.xor_self, BitVec.xor_zero]
      rw [hsplit, hf, hg, hrest, h n (by omega)]
    · refine ih (by omega) y fun j hj => ?_
      rcases eq_or_lt_of_le hj with rfl | hlt
      · simpa using hbit
      · exact hy j hlt

/-- The map that takes bit `n - 1 - j` to the `j`-th step from `v`. -/
def stepsFrom : Nat → BitVec 16 → BitVec 16 → BitVec 16
  | 0, _, _ => 0
  | n + 1, v, x => whereSet (x.getLsbD n) v ^^^ stepsFrom n (jitterStep v) x

theorem stepsFrom_keepsXor (n : Nat) (v : BitVec 16) : KeepsXor (stepsFrom n v) := by
  induction n generalizing v with
  | zero => exact fun _ _ => BitVec.xor_self.symm
  | succ n ih =>
    intro x y
    simp only [stepsFrom, ih (jitterStep v) x y, BitVec.getLsbD_xor, whereSet_xor, xor_xor_xor_comm]

/-- Above its bits the map takes everything to 0. -/
theorem stepsFrom_twoPow_of_le {n i : Nat} (hi : n ≤ i) (v : BitVec 16) : stepsFrom n v (BitVec.twoPow 16 i) = 0 := by
  induction n generalizing v with
  | zero => rfl
  | succ n ih =>
    have hbit : (BitVec.twoPow 16 i).getLsbD n = false := by
      rw [BitVec.getLsbD_twoPow]
      simp
      omega
    rw [stepsFrom, ih (by omega), hbit]
    simp [whereSet]

theorem stepsFrom_twoPow {n i : Nat} (hn : n ≤ 16) (hi : i < n) (v : BitVec 16) :
    stepsFrom n v (BitVec.twoPow 16 i) = jitterStep^[n - 1 - i] v := by
  induction n generalizing v with
  | zero => omega
  | succ n ih =>
    have hbit : (BitVec.twoPow 16 i).getLsbD n = decide (i = n) := by
      rw [BitVec.getLsbD_twoPow]
      simp
      omega
    rw [stepsFrom, hbit]
    rcases eq_or_lt_of_le (Nat.le_of_lt_succ hi) with rfl | hlt
    · have hlast : i + 1 - 1 - i = 0 := by omega
      rw [stepsFrom_twoPow_of_le (Nat.le_refl i), hlast]
      simp [whereSet]
    · have hne : ¬i = n := by omega
      have hsteps : n + 1 - 1 - i = n - 1 - i + 1 := by omega
      rw [ih (by omega) hlt, hsteps, Function.iterate_succ_apply]
      simp [whereSet, hne]

/-- A bit above bit 0 steps to the bit below it. -/
theorem jitterStep_twoPow : ∀ i < 15, jitterStep (BitVec.twoPow 16 (i + 1)) = BitVec.twoPow 16 i := by decide

theorem twoPow_eq_steps {j : Nat} (hj : j ≤ 15) : BitVec.twoPow 16 (15 - j) = jitterStep^[j] (BitVec.twoPow 16 15) := by
  induction j with
  | zero => rfl
  | succ j ih =>
    have hsucc : 15 - j = 15 - (j + 1) + 1 := by omega
    rw [Function.iterate_succ_apply', ← ih (by omega), hsucc, jitterStep_twoPow _ (by omega)]

/-- What 256 steps make of bit 15. -/
theorem jitterStep_256_top : jitterStep^[256] (BitVec.twoPow 16 15) = 0x5180 := by decide +kernel

/-- 256 steps as one map. -/
theorem jitterStep_256 (x : BitVec 16) : jitterStep^[256] x = stepsFrom 16 0x5180 x := by
  refine (jitterStep_keepsXor.iterate 256).ext (stepsFrom_keepsXor 16 _) (fun i hi => ?_) x
  have hbit : BitVec.twoPow 16 i = jitterStep^[15 - i] (BitVec.twoPow 16 15) := by
    rw [← twoPow_eq_steps (by omega)]
    congr 1
    omega
  calc jitterStep^[256] (BitVec.twoPow 16 i)
      = jitterStep^[256] (jitterStep^[15 - i] (BitVec.twoPow 16 15)) := by rw [hbit]
    _ = jitterStep^[15 - i] (jitterStep^[256] (BitVec.twoPow 16 15)) := by
      rw [← Function.iterate_add_apply, Nat.add_comm, Function.iterate_add_apply]
    _ = jitterStep^[16 - 1 - i] 0x5180 := by rw [jitterStep_256_top]
    _ = stepsFrom 16 0x5180 (BitVec.twoPow 16 i) := (stepsFrom_twoPow (Nat.le_refl 16) hi _).symm

/-- Steps by the multiple of 257. -/
theorem jitterStep_257_mul (a : Nat) (x : BitVec 16) :
    jitterStep^[256 * a + a] x = (stepsFrom 16 0x5180)^[a] (jitterStep^[a] x) := by
  have hmap : jitterStep^[256] = stepsFrom 16 0x5180 := funext jitterStep_256
  rw [Function.iterate_add_apply, Function.iterate_mul, hmap]

theorem jitterStep_injective : Function.Injective jitterStep := by
  intro x y h
  have hzero : jitterStep (x ^^^ y) = 0 := by
    rw [jitterStep_keepsXor, h]
    exact BitVec.xor_self
  by_contra hne
  exact jitterStep_ne_zero (fun hxor => hne (BitVec.xor_eq_zero_iff.1 hxor)) hzero

/-- The sequence from 1 is back after 65535 steps. -/
theorem jitterStep_period : jitterStep^[65535] 1 = 1 := by
  have htwice : jitterStep^[256 * 256] 1 = jitterStep 1 := by
    have hmap : jitterStep^[256] = stepsFrom 16 0x5180 := funext jitterStep_256
    rw [Function.iterate_mul, hmap]
    decide +kernel
  refine jitterStep_injective ?_
  rw [← Function.iterate_succ_apply' jitterStep]
  exact htwice

/-- It is not back after 65535 / p steps for any prime p of 65535. -/
theorem jitterStep_not_period {k : Nat} (hk : k = 21845 ∨ k = 13107 ∨ k = 3855 ∨ k = 255) : jitterStep^[k] 1 ≠ 1 := by
  rcases hk with rfl | rfl | rfl | rfl
  · rw [show 21845 = 256 * 85 + 85 from rfl, jitterStep_257_mul]; decide +kernel
  · rw [show 13107 = 256 * 51 + 51 from rfl, jitterStep_257_mul]; decide +kernel
  · rw [show 3855 = 256 * 15 + 15 from rfl, jitterStep_257_mul]; decide +kernel
  · decide +kernel

/-- A proper divisor of 65535 divides one of its quotients by a prime. -/
theorem dvd_of_proper_divisor {d : Nat} (hd : d ∣ 65535) (hne : d ≠ 65535) :
    d ∣ 21845 ∨ d ∣ 13107 ∨ d ∣ 3855 ∨ d ∣ 255 := by
  obtain ⟨c, hc⟩ := hd
  have hprime : c.minFac.Prime := Nat.minFac_prime fun hone => hne (by rw [hc, hone, Nat.mul_one])
  obtain ⟨q, hq⟩ := c.minFac_dvd
  have hfactors : c.minFac ∣ 3 * 5 * 17 * 257 := ⟨d * q, by
    calc 3 * 5 * 17 * 257 = d * c := hc
      _ = d * (c.minFac * q) := by rw [← hq]
      _ = c.minFac * (d * q) := Nat.mul_left_comm ..⟩
  have hproduct : c.minFac * (d * q) = 65535 := by rw [Nat.mul_left_comm, ← hq, ← hc]
  have quotient {p : Nat} (h : c.minFac = p) : d ∣ 65535 / p :=
    ⟨q, by rw [← hproduct, h, Nat.mul_div_cancel_left _ (h ▸ hprime.pos)]⟩
  rcases hprime.dvd_mul.1 hfactors with h | h
  · rcases hprime.dvd_mul.1 h with h | h
    · rcases hprime.dvd_mul.1 h with h | h
      · exact .inl (quotient ((Nat.prime_dvd_prime_iff_eq hprime Nat.prime_three).1 h))
      · exact .inr (.inl (quotient ((Nat.prime_dvd_prime_iff_eq hprime Nat.prime_five).1 h)))
    · exact .inr (.inr (.inl (quotient ((Nat.prime_dvd_prime_iff_eq hprime (by norm_num)).1 h))))
  · exact .inr (.inr (.inr (quotient ((Nat.prime_dvd_prime_iff_eq hprime (by norm_num)).1 h))))

/-- Settles O26: the period divides 65535 and none of its quotients by a prime. -/
theorem jitterSequenceHasFullLength : Obligations.JitterSequenceHasFullLength := by
  refine ⟨fun x => jitterStep_ne_zero, fun x y h => jitterStep_injective h, jitterStep_period, fun k hpos hlt hk => ?_⟩
  have hdvd : Function.minimalPeriod jitterStep 1 ∣ 65535 := Function.IsPeriodicPt.minimalPeriod_dvd jitterStep_period
  have hperiod : Function.IsPeriodicPt jitterStep k 1 := hk
  have hle := hperiod.minimalPeriod_le hpos
  have quotient {q : Nat} (h : Function.minimalPeriod jitterStep 1 ∣ q) : jitterStep^[q] 1 = 1 :=
    (Function.isPeriodicPt_minimalPeriod jitterStep 1).trans_dvd h
  rcases dvd_of_proper_divisor hdvd (by omega) with h | h | h | h
  · exact jitterStep_not_period (by simp) (quotient h)
  · exact jitterStep_not_period (by simp) (quotient h)
  · exact jitterStep_not_period (by simp) (quotient h)
  · exact jitterStep_not_period (by simp) (quotient h)

end Sys2Proof.Machine
end

section
namespace Sys2Proof.Machine

/-! ### The survey tally (R177) -/

/-- A good SURVEY from another station, where no request may be granted, is tallied alone (R13, R177). -/
theorem exec_surveyReceived_good {t : Time} {rate : Rate} {h : SurveyHeader} {fill : List Byte} {check : BitVec 16}
    {levels : List Int} {s : State} (hrx : s.rx = .receiving rate) (hgood : surveyBad h fill check levels = false)
    (hother : h.sender ≠ s.own) (hquiet : Claim.Quiet s) : exec (.surveyReceived t h fill check levels) s
      = .next ((s.advance t).takeGood.takeSurvey h (marginOf levels)).settle := by
  have hrx' : (s.advance t).rx.isReceiving = true := by rw [State.advance_rx, hrx]; rfl
  have hquiet' : Claim.Quiet ((s.advance t).takeGood.takeSurvey h (marginOf levels)) := hquiet
  exact congrArg _ ((State.receive_good hrx' hgood hother _).trans (State.finish_of_quiet hquiet'))

/-- A tally goes on for the sender it follows (R177). -/
theorem tallied_same {z : Tally} {h : SurveyHeader} (hz : z.sender = h.sender) (margin : Nat) :
    Machine.tallied (some z) h margin = { z with
      heard := min 65535 (z.heard + 1)
      missing := min 65535 (z.missing + (h.sequence.toNat - z.last.toNat - 1))
      last := h.sequence
      marginAvg := (3 * z.marginAvg + margin) / 4 } := by
  simp only [Machine.tallied, if_pos hz]
  rfl

/-- A tally begins anew for another sender (R177). -/
theorem tallied_other {o : Option Tally} {h : SurveyHeader} (ho : ∀ z, o = some z → z.sender ≠ h.sender)
    (margin : Nat) :
    Machine.tallied o h margin = ⟨h.sender, 1, h.sequence, h.sequence, 0, margin⟩ := by
  cases o with
  | none => rfl
  | some z => simp only [Machine.tallied, if_neg (ho z rfl)]

/-- Settles O24: the frame is handed to the tally, which reports it, and the event unit judges. -/
theorem surveyFramesAreTallied : Obligations.SurveyFramesAreTallied := by
  intro t rate h fill check levels s hrx hgood hother hquiet
  let v : State := { (s.advance t).takeGood with tally := some (Machine.tallied s.tally h (marginOf levels)) }
  have hbit : (v.report .surveyHeard).statuses.getLsbD 10 = (s.statuses.getLsbD 10 || s.masks.getLsbD 10) := by
    rw [Bool.eq_iff_iff, v.report_status, Bool.or_eq_true]
    simp [v, State.takeGood, State.count, Source.bit]
  refine ⟨(v.report .surveyHeard).settle, Machine.tallied s.tally h (marginOf levels),
    exec_surveyReceived_good hrx hgood hother hquiet, rfl, rfl, ?_, fun hs => ?_, fun z hz hsame => ?_, fun hnew => ?_⟩
  · have hmasks : (v.report .surveyHeard).masks = s.masks := rfl
    rw [State.settle_transition _ (by decide) (by decide), hbit, hmasks]
    cases s.masks.getLsbD 10 <;> simp
  · have hv : EventLaw v := EventLaw.of_sources hs ⟨rfl, rfl, rfl, rfl, rfl, rfl, rfl, rfl⟩
    have hreported : (v.report .surveyHeard).settle = v.report .surveyHeard := hv.report .surveyHeard
    rw [hreported]
    rfl
  · rw [hz, tallied_same hsame]
  · rw [tallied_other hnew]

/-! ### The message store (R117, R123) -/

/-- Settles O27: the laws of a chain filled. -/
theorem chainsHoldTheirPayload : Obligations.ChainsHoldTheirPayload :=
  fun _ _ _ hwf hdistinct hlength =>
    ⟨chainBytes_fillChain hwf hdistinct hlength, fun _ hx => read_fillChain_outside hwf hx⟩

/-! ### An echo that does not come (R98, R137) -/

/-- What an unechoed outcome tells: RATE_CHANGE where the level falls (R137, R138). -/
theorem State.unechoedOutcome_told {s : State} (hlast : s.cfg.downshiftAfter ≤ s.unechoed + 1)
    (hrate : s.rate ≠ .slow) :
    s.unechoedOutcome.statuses.getLsbD 8 = (s.statuses.getLsbD 8 || s.masks.getLsbD 8) := by
  rw [State.unechoedOutcome, if_neg (Nat.not_lt.2 hlast), if_pos hrate, Bool.eq_iff_iff, State.report_status,
    Bool.or_eq_true]
  simp [Source.bit]

theorem rateCode_rateDown (r : Rate) : rateCode (rateDown r) = rateCode r - 1 := by
  cases r <;> rfl

/-- Only an echo tells RATE_CHANGE by a removal (R136). -/
theorem State.removeHold_statuses (s : State) (i : Fin 16) {k : Ending} (hk : k ≠ .echoed) :
    (s.removeHold i k).statuses = s.statuses := by
  unfold State.removeHold
  split
  · rfl
  · simp [hk]

section EchoExpiry

variable {s : State} {i : Fin 16} {e : Hold}

theorem exec_echoDeadline_over {t : Time} (he : s.hold[i] = some e) (hstate : e.state = .awaitingEcho)
    (hd : e.deadline ≤ max s.now t / 96) :
    exec (.echoDeadlineExpiry t i) s = .next ((s.advance t).expireEcho i e).settle := by
  simp only [exec, execEchoDeadlineExpiry, State.advance_hold, he]
  exact if_pos ⟨hstate, hd⟩

/-- Whether the entry is tried again or abandoned, rate control has been told "unechoed" (R98). -/
theorem State.expireEcho_adapts (s : State) (i : Fin 16) (e : Hold) :
    (s.expireEcho i e).echoed = s.unechoedOutcome.echoed ∧ (s.expireEcho i e).unechoed = s.unechoedOutcome.unechoed
      ∧ (s.expireEcho i e).rate = s.unechoedOutcome.rate
      ∧ (s.expireEcho i e).statuses = s.unechoedOutcome.statuses := by
  unfold State.expireEcho
  dsimp only
  split
  · exact ⟨rfl, rfl, rfl, rfl⟩
  · obtain ⟨hechoed, hunechoed⟩ :=
      State.removeHold_adapts (s := s.unechoedOutcome) (i := i) (c := .abandoned) (by decide)
    exact ⟨hechoed, hunechoed, State.removeHold_rate _ _ (by decide), State.removeHold_statuses _ _ (by decide)⟩

/-- With attempts left the entry waits in HOLDING for its retry (R84, R98). -/
theorem State.expireEcho_retries (s : State) (i : Fin 16) (hmore : e.attempts < s.cfg.retryLimit + 1) :
    let u := s.expireEcho i e
    u.jitter = jitterStep s.jitter ∧ u.free = s.free ∧ u.seen = s.seen ∧ u.hold = setAt s.hold i (some { e with
      state := .holding
      deadline := s.nowMs
        + (s.cfg.holdMin + (jitterStep s.jitter).toNat % (s.cfg.jitter + 1) + 2 * (s.holdCount - 1)) }) := by
  have hu : s.expireEcho i e = s.unechoedOutcome.drawn.setHold i (some { e with
      state := .holding
      deadline := s.nowMs + (s.cfg.holdMin + s.drawValue s.cfg.jitter + 2 * (s.holdCount - 1)) }) := if_pos hmore
  rw [hu]
  simp [State.setHold, State.drawn, State.drawValue]

/-- After the last attempt the entry is abandoned (R98). -/
theorem State.expireEcho_abandons (hseen : SeenLaw s) (he : s.hold[i] = some e)
    (hlast : s.cfg.retryLimit + 1 ≤ e.attempts) :
    let u := s.expireEcho i e
    Claim.Removed s u i e .abandoned (some .abandoned) ∧ u.jitter = s.jitter
      ∧ u.stats.abandoned = min 65535 (s.stats.abandoned + 1) := by
  intro u
  have hu : u = s.unechoedOutcome.removeHold i .abandoned := by
    simp only [u, State.expireEcho, if_neg (Nat.not_lt.2 hlast)]
  have hhold : s.unechoedOutcome.hold = s.hold := by simp
  have hfree : s.unechoedOutcome.free = s.free := by simp
  have hentry : s.unechoedOutcome.hold[i] = some e := by rw [hhold, he]
  have hlaw : SeenLaw s.unechoedOutcome := hseen.of_frame (by simp)
  obtain ⟨hnodup, hpending⟩ := hlaw.pending hentry
  obtain ⟨⟨hgone, hchain, hstatus, hslot⟩, hothers⟩ := State.removeHold_gone .abandoned hnodup hpending hentry
  obtain ⟨-, -, -, hcounted⟩ := State.removeHold_some (k := .abandoned) hentry
  rw [hu]
  refine ⟨⟨⟨hgone, by rw [hchain, hfree], hstatus, hslot⟩, fun j hj => by rw [hothers j hj, hhold]⟩, by simp, ?_⟩
  rw [hcounted]
  simp [Ending.counted, Stats.addAbandoned, satInc]

end EchoExpiry

/-- Settles O34: rate control is told first, then the entry is tried again or abandoned. -/
theorem echoExpiryRetriesOrAbandons : Obligations.EchoExpiryRetriesOrAbandons := by
  intro t i s e he hstate hd hseen
  let v : State := s.advance t
  obtain ⟨hechoed, hunechoed, hrate, hstatuses⟩ := v.expireEcho_adapts i e
  obtain ⟨hzero, hstreak, hlevel⟩ := v.unechoedOutcome_streaks
  refine ⟨(v.expireEcho i e).settle, exec_echoDeadline_over he hstate hd, hechoed.trans hzero, fun hfew => ?_,
    fun hmany => ⟨?_, ?_, fun hfast => ?_⟩, fun hmore => ?_, fun hlast => ?_⟩
  · exact ⟨hunechoed.trans (hstreak.trans (if_pos hfew)), hrate.trans (hlevel.trans (if_neg (Nat.not_le.2 hfew)))⟩
  · exact hunechoed.trans (hstreak.trans (if_neg (Nat.not_lt.2 hmany)))
  · have hdown : (v.expireEcho i e).settle.rate = rateDown s.rate := hrate.trans (hlevel.trans (if_pos hmany))
    rw [hdown, rateCode_rateDown]
  · have hmasks : (v.expireEcho i e).masks = s.masks := by simp [v]
    have htold := State.unechoedOutcome_told (s := v) hmany hfast
    rw [State.settle_transition _ (by decide) (by decide), hstatuses, htold, hmasks]
    cases hmask : s.masks.getLsbD 8 <;> simp [v, hmask]
  · obtain ⟨hjitter, hfree, hseen, hhold⟩ := v.expireEcho_retries i hmore
    refine ⟨hjitter, hfree, hseen, fun j hj => ?_, ?_⟩
    · rw [State.settle_hold, hhold, setAt_other _ _ (Ne.symm hj)]
      rfl
    · rw [State.settle_hold, hhold, setAt_same]
      rfl
  · exact State.expireEcho_abandons (s := v) hseen he hlast

/-! ### A beacon sent (R55, R132) -/

/-- The power code after a beacon sent now (R132, R133). -/
def State.steppedPower (s : State) : Nat :=
  if s.station = .running ∧ s.cfg.denseAbove < s.upCount then max s.cfg.powerFloor (s.power - s.cfg.powerStep)
  else if s.station = .running ∧ s.upCount < s.cfg.sparseBelow then min s.cfg.powerCeiling (s.power + s.cfg.powerStep)
  else s.power

/-- The density step writes the power code alone (R132). -/
theorem State.densityStep_eq (s : State) : s.densityStep = { s with power := s.steppedPower } := by
  unfold State.densityStep State.steppedPower
  by_cases hrun : s.station = .running
  · simp only [if_pos hrun, and_iff_right hrun]
    split
    · rfl
    · split <;> rfl
  · simp [hrun]

/-- The state when a beacon's BODY has ended, before the arbiter (R17, R55, R132). -/
def State.beaconEnded (s : State) (t : Time) : State := { s with
  now := max s.now t, rx := .searching, tx := none, rftx := [], stretch := some (max s.now t / 96 + s.cfg.stretch)
  jitter := jitterStep s.jitter, beaconSerial := s.beaconSerial + 1, power := s.steppedPower
  beacon := .waiting (max s.now t / 96 + (s.cfg.beaconPeriod * 1000 + (jitterStep s.jitter).toNat % 256)) }

theorem exec_bodyEnd_beacon {t : Time} {s : State} {a : Attempt} (ha : s.tx = some a) (hp : a.phase = .body)
    (hends : a.ends ≤ max s.now t) (howner : a.owner = .beacon) :
    exec (.bodyEnd t) s = .next (s.beaconEnded t).finish := by
  have hended : (s.advance t).endBody a = s.beaconEnded t := by
    rw [State.endBody_eq, howner]
    show State.beaconSent _ = _
    rw [State.beaconSent, State.densityStep_eq]
    rfl
  rw [exec_bodyEnd_over ha hends hp, hended]

/-- Settles O30: the beacon is scheduled again before the next grant, which a waiting beacon takes no part in. -/
theorem sentBeaconsAreScheduledAgain : Obligations.SentBeaconsAreScheduledAgain := by
  intro t s a ha hp hends howner
  let w : State := s.beaconEnded t
  have hbeacon : w.arbitrate.beacon = w.beacon := (w.arbitrateUpTo_others 19).1 nofun
  have hkept : w.finish.rx = w.rx ∧ w.finish.stretch = w.stretch ∧ w.finish.beaconSerial = w.beaconSerial
      ∧ w.finish.beacon = w.beacon ∧ w.finish.power = w.power := by
    simp [State.finish, hbeacon]
  obtain ⟨hrx, hstretch, hserial, hnext, hpower⟩ := hkept
  refine ⟨w.finish, exec_bodyEnd_beacon ha hp hends howner, hrx, hstretch, hserial, hnext, hpower, fun hnone => ?_⟩
  have hquiet : Claim.Quiet w := by
    rcases hnone with hnone | hsilent
    · exact quiet_of_none (State.nextRequest_none_of_fewer hnone nofun id (fun _ _ he _ => he) id)
    · exact quiet_of_not_running hsilent
  rw [State.finish_of_quiet hquiet]
  rfl

end Sys2Proof.Machine
end

section
namespace Sys2Proof.Machine

/-! ### Statuses read, cleared and set by the lamp (R168 to R171) -/

theorem State.clearStatuses_status (s : State) (selection : BitVec 12) (b : Nat) :
    (s.clearStatuses selection).statuses.getLsbD b = true ↔ s.statuses.getLsbD b = true
      ∧ (selection.getLsbD b = false ∨ (levelWord s.modes).getLsbD b = true ∧ s.latches.getLsbD b = false) := by
  have hlt (h : s.statuses.getLsbD b = true) : b < 12 := BitVec.lt_of_getLsbD h
  simp only [State.clearStatuses, BitVec.getLsbD_and, BitVec.getLsbD_or, BitVec.getLsbD_not, Bool.and_eq_true,
    Bool.or_eq_true, Bool.not_eq_true', decide_eq_true_eq]
  tauto

/-- Where the event unit is done, a clear takes the selected statuses, and only a level whose condition holds is set
again: an unlatched level is never taken, as it is its condition (R169, R171). -/
theorem State.cleared_statuses {s : State} (hs : EventLaw s) (selection : BitVec 12) :
    (s.clearStatuses selection).settle.statuses
      = (s.statuses &&& ~~~selection) ||| (s.masks &&& levelWord s.modes &&& s.conditionWord) := by
  refine BitVec.eq_of_getLsbD_eq fun b hb => Bool.eq_iff_iff.2 ?_
  have hsettled := (eventLaw_iff s).1 hs b
  rw [s.settle_status] at hsettled
  have hcondition : (s.clearStatuses selection).conditionWord = s.conditionWord := rfl
  rw [State.settle_status, s.clearStatuses_status, hcondition,
    show (s.clearStatuses selection).masks = s.masks from rfl, show (s.clearStatuses selection).modes = s.modes from rfl,
    show (s.clearStatuses selection).latches = s.latches from rfl]
  simp only [BitVec.getLsbD_and, BitVec.getLsbD_or, BitVec.getLsbD_not, Bool.and_eq_true, Bool.or_eq_true,
    Bool.not_eq_true', decide_eq_true_eq, ← Bool.not_eq_true] at hsettled ⊢
  tauto

/-- Settles O46: the event unit being done, its judgement after the clear sets again exactly the levels that hold. -/
theorem readingAndClearingEvents : Obligations.ReadingAndClearingEvents := by
  intro t w s h hs
  let v : State := s.advance t
  have hv : EventLaw v := (show EventLaw s from hs).of_sources (SameSources.refl s)
  have hafter (selection : BitVec 12) : (v.clearStatuses selection).settle
      = { v with statuses :=
          (s.statuses &&& ~~~selection) ||| (s.masks &&& levelWord s.modes &&& s.conditionWord) } := by
    calc (v.clearStatuses selection).settle = { v with statuses := (v.clearStatuses selection).settle.statuses } := rfl
      _ = _ := by rw [State.cleared_statuses hv]; rfl
  have hbytes : bigEndian 2 v.statuses.toNat = [(s.statuses.setWidth 16).extractLsb' 8 8, s.statuses.setWidth 8] := by
    rw [bigEndian_ofNat, BitVec.ofNat_toNat]
    rfl
  have hread : exec (.readEvents t) s = .next ((v.clearStatuses (BitVec.allOnes 12)).settle.answer
      (Result.ok.code :: bigEndian 2 v.statuses.toNat)) := congrArg _ (State.port_other (s := v) h _)
  have hclear : exec (.clearEvents t w) s = .next (v.clearStatuses (w.setWidth 12)).settle.ok :=
    congrArg _ (State.port_other (s := v) h _)
  refine ⟨?_, ?_⟩
  · rw [hread, hafter, hbytes]
    rfl
  · rw [hclear, hafter]
    rfl

/-- A mask that has taken a status counts once (R170). -/
theorem masked_once (m l k c : Prop) : m ∧ (l ∧ m ∧ k ∨ c) ↔ m ∧ (l ∧ k ∨ c) := by tauto

/-- A status `u` by the mask `w`, the level mode `v`, the latch flag `l`, the status before `x`,
a change of mode `c` and the level's condition `y`: the five ways the event unit decides it (R168 to R170). -/
theorem judged_cases {u w v l x y : Bool} {c : Prop}
    (h : u = true ↔ w = true ∧ ((v = false ∨ l = true) ∧ (x = true ∧ ¬c) ∨ v = true ∧ y = true)) :
    (w = false → u = false) ∧ (w = true → v = true → l = false → u = y)
      ∧ (w = true → v = true → l = true → ¬c → u = (x || y)) ∧ (w = true → c → u = (v && y))
      ∧ (w = true → v = false → ¬c → u = x) := by
  refine ⟨fun hmasked => ?_, fun hon hlevel hfollows => ?_, fun hon hlevel hlatched hsame => ?_, fun hon hchanged => ?_,
    fun hon htransition hsame => ?_⟩
  · simpa [hmasked] using h
  · simpa [hon, hlevel, hfollows, ← Bool.eq_iff_iff] using h
  · simpa [hon, hlevel, hlatched, hsame, ← Bool.or_eq_true, ← Bool.eq_iff_iff] using h
  · simpa [hon, hchanged, ← Bool.and_eq_true, ← Bool.eq_iff_iff] using h
  · simpa [hon, htransition, hsame, ← Bool.eq_iff_iff] using h

/-- Settles O47: new settings first take statuses, then the event unit judges by the new settings. -/
theorem setEventsDecidesEveryStatus : Obligations.SetEventsDecidesEveryStatus := by
  intro t w l modes s h
  let v : State := s.advance t
  let u : State := (v.writeEvents (w.setWidth 12) modes (l.setWidth 12)).settle
  refine ⟨u.ok, congrArg _ (State.port_other (s := v) h _), rfl, fun b hb => ?_⟩
  have hstatus := (v.writeEvents (w.setWidth 12) modes (l.setWidth 12)).settle_status b
  rw [State.writeEvents_status, State.StatusKept] at hstatus
  have hw : (w.setWidth 12).getLsbD b = w.getLsbD b := by simp [hb]
  have hl : (l.setWidth 12).getLsbD b = l.getLsbD b := by simp [hb]
  have hjudged : u.ok.statuses.getLsbD b = true ↔ w.getLsbD b = true
      ∧ (((levelWord modes).getLsbD b = false ∨ l.getLsbD b = true)
          ∧ (s.statuses.getLsbD b = true ∧ ¬∃ a : Fin 4, b = 3 + a.1 ∧ triggerMode s.modes a ≠ triggerMode modes a)
        ∨ (levelWord modes).getLsbD b = true ∧ s.conditionWord.getLsbD b = true) := by
    rw [← hw, ← hl]
    exact hstatus.trans (masked_once _ _ _ _)
  exact judged_cases hjudged

end Sys2Proof.Machine
end

section
namespace Sys2Proof.Machine

/-! ### An entry dropped stays dropped (R61, R157) -/

/-- The entry `e` is dropped with outcome `o`: its seen entry is DROPPED and its slot COMPLETE, and no entry still held
names that slot (R61, R157). -/
def DroppedAs (o : SlotOutcome) (e : Hold) (u : State) : Prop :=
  (∃ x, u.findSeen e.ident = some x ∧ x.status = .dropped)
    ∧ ∀ k, e.slot = some k → u.slots[k] = .complete e.ident.serial o e.attempts
      ∧ ∀ (j : Fin 16) (f : Hold), u.hold[j] = some f → f.slot ≠ some k

section Dropped

variable {o : SlotOutcome} {e : Hold} {s u : State}

theorem DroppedAs.of_entries (h : DroppedAs o e s) (hseen : u.seen = s.seen) (hslots : u.slots = s.slots)
    (hhold : ∀ (j : Fin 16) (f : Hold), u.hold[j] = some f → ∃ g, s.hold[j] = some g ∧ g.slot = f.slot) :
    DroppedAs o e u := by
  obtain ⟨hdropped, hslot⟩ := h
  refine ⟨by rwa [State.findSeen, hseen], fun k hk => ?_⟩
  obtain ⟨hcomplete, hunnamed⟩ := hslot k hk
  refine ⟨by rw [hslots, hcomplete], fun j f hf => ?_⟩
  obtain ⟨g, hg, hsame⟩ := hhold j f hf
  exact hsame ▸ hunnamed j g hg

theorem DroppedAs.of_same (h : DroppedAs o e s) (hsame : u.seen = s.seen ∧ u.slots = s.slots ∧ u.hold = s.hold) :
    DroppedAs o e u := by
  obtain ⟨hseen, hslots, hhold⟩ := hsame
  exact h.of_entries hseen hslots fun j f hf => ⟨f, hhold ▸ hf, rfl⟩

/-- Another entry rewritten under its slot leaves what is dropped as it is. -/
theorem DroppedAs.setHold (h : DroppedAs o e s) {i : Fin 16} {f g : Hold} (hg : s.hold[i] = some g)
    (hslot : g.slot = f.slot) : DroppedAs o e (s.setHold i (some f)) := by
  refine h.of_entries rfl rfl fun j f' hf' => ?_
  rw [State.setHold_hold, setAt_get] at hf'
  split at hf'
  · next hij =>
    cases hf'
    exact ⟨g, hij ▸ hg, hslot⟩
  · exact ⟨f', hf', rfl⟩

/-- Another entry's removal leaves what is dropped as it is. -/
theorem DroppedAs.removeHold (h : DroppedAs o e s) (i : Fin 16) (c : Ending) : DroppedAs o e (s.removeHold i c) := by
  obtain ⟨⟨x, hx, hstatus⟩, hslot⟩ := h
  obtain ⟨status, hsame, hx'⟩ := State.findSeen_removeHold hx i c
  refine ⟨⟨_, hx', (hsame (by simp [hstatus])).trans hstatus⟩, fun k hk => ?_⟩
  obtain ⟨hcomplete, hunnamed⟩ := hslot k hk
  exact ⟨(State.removeHold_slots_other (hunnamed i)).trans hcomplete,
    fun j f hf => hunnamed j f (State.removeHold_hold_some hf)⟩

/-- An entry removed, the only one that names its slot, is dropped where its ending says so (R61, R157). -/
theorem DroppedAs.of_removeHold {i : Fin 16} {c : Ending} (hseen : SeenLaw s) (hslot : SlotLaw s)
    (he : s.hold[i] = some e) (hstatus : c.seenStatus = .dropped) (ho : c.slotOutcome = some o) :
    DroppedAs o e (s.removeHold i c) := by
  obtain ⟨hnodup, hpending⟩ := hseen.pending he
  obtain ⟨⟨hgone, -, ⟨x, hx, hsettled⟩, hcomplete⟩, -⟩ := State.removeHold_gone c hnodup hpending he
  refine ⟨⟨x, hx, hsettled.trans hstatus⟩, fun k hk => ⟨hcomplete k _ hk ho, fun j f hf hfk => ?_⟩⟩
  obtain rfl : j = i := hslot.alone he (State.removeHold_hold_some hf) hk hfk
  cases hgone.symm.trans hf

theorem DroppedAs.granted (h : DroppedAs o e s) (w : Owner) : DroppedAs o e (s.granted w) := by
  cases w with
  | beacon => exact h.of_same (by unfold State.granted State.markGranted; dsimp only; split <;> exact ⟨rfl, rfl, rfl⟩)
  | hush => exact h.of_same ⟨rfl, rfl, rfl⟩
  | survey => exact h.of_same ⟨rfl, rfl, rfl⟩
  | hold i =>
    cases hi : s.hold[i] with
    | none => exact h.of_same (by simp [State.granted, State.markGranted, hi])
    | some g =>
      have hrestated : DroppedAs o e (s.setHold i (some { g with state := .assessing })) := h.setHold hi rfl
      exact hrestated.of_same (by simp [State.granted, State.markGranted, hi])

theorem DroppedAs.deferOwner (h : DroppedAs o e s) (w : Owner) : DroppedAs o e (s.deferOwner w) := by
  cases w with
  | beacon => exact h.of_same (by unfold State.deferOwner; dsimp only; split <;> exact ⟨rfl, rfl, rfl⟩)
  | hush => exact h.of_same ⟨rfl, rfl, rfl⟩
  | survey => exact h.of_same ⟨rfl, rfl, rfl⟩
  | hold i =>
    have hidle : DroppedAs o e { s with tx := none } := h
    unfold State.deferOwner
    dsimp only
    split
    · next g hg =>
      split
      · exact DroppedAs.setHold (s := State.drawn { s with tx := none }) h hg rfl
      · exact hidle.removeHold i .channelBusy
    · exact hidle

theorem DroppedAs.grant (h : DroppedAs o e s) (w : Owner) : DroppedAs o e (s.grant w) := by
  cases hrx : s.rx.busy with
  | false => rw [State.grant_of_idle hrx]; exact h.granted w
  | true => rw [State.grant_of_busy hrx]; exact (h.granted w).deferOwner w

/-- The end of an event leaves what is dropped as it is (R15). -/
theorem DroppedAs.finish (h : DroppedAs o e s) : DroppedAs o e s.finish :=
  State.arbitrateUpTo_induct (P := DroppedAs o e) (fun _ w hu _ _ _ => hu.grant w) 19 s h

end Dropped

/-! ### What the arbiter leaves (R15) -/

/-- A grant, deferred at once or not, writes the granted owner's record alone (R15, R18). -/
theorem State.grant_sameRecord (s : State) {o o' : Owner} (h : o ≠ o') : SameRecord s (s.grant o) o' := by
  have hgranted := s.granted_sameRecord h
  cases hrx : s.rx.busy with
  | false => rwa [State.grant_of_idle hrx]
  | true =>
    rw [State.grant_of_busy hrx]
    exact hgranted.trans ((s.granted o).deferOwner_sameRecord h)

/-- The end of an event leaves the record of an owner that requests nothing (R15). -/
theorem State.finish_sameRecord {s : State} {o : Owner} (h : ¬s.Stands o) : SameRecord s s.finish o := by
  have harbitrated : SameRecord s s.arbitrate o ∧ s.arbitrate.hushQueue = s.hushQueue := by
    refine State.arbitrateUpTo_induct (P := fun u => SameRecord s u o ∧ u.hushQueue = s.hushQueue) ?_ 19 s
      ⟨.refl s o, rfl⟩
    rintro u o' ⟨hsame, hqueue⟩ _ _ ho'
    have hne : o' ≠ o := by
      rintro rfl
      exact h (hsame.stands hqueue (State.nextRequest_some ho'))
    exact ⟨hsame.trans (u.grant_sameRecord hne), by simp [hqueue]⟩
  refine harbitrated.1.trans ?_
  cases o <;> rfl

/-! ### A busy judgement (R16, R18, R93) -/

/-- In `u` the owner's record backs off to `deadline`, with what the deferral keeps of `s`: a beacon's replacement
deadline, a hold entry with one defer more (R18, R52, R93). -/
def State.BackedOff (s : State) (deadline : Millis) (u : State) : Owner → Prop
  | .beacon => ∃ r, s.beacon = .inAttempt r ∧ u.beacon = .backoff deadline r
  | .hush => u.hushHead = .backoff deadline
  | .survey => u.burst = .backoff deadline
  | .hold i => ∃ e, s.hold[i] = some e ∧ e.defers + 1 < 15
      ∧ u.hold[i] = some { e with state := .holding, deadline := deadline, defers := e.defers + 1 }

/-- In `u` the owner, a hold entry of `s` at its fifteenth deferral, is gone (R93). -/
def State.DeferredOut (s u : State) (o : Owner) : Prop :=
  ∃ i e, o = .hold i ∧ s.hold[i] = some e ∧ 15 ≤ e.defers + 1 ∧ u.hold[i] = none
    ∧ DroppedAs (.dropped .channelBusy) e u

section Deferred

variable {s u w : State} {o : Owner} {d : Millis}

theorem State.BackedOff.of_same (h : s.BackedOff d u o) (hsame : SameRecord u w o) : s.BackedOff d w o := by
  cases o with
  | beacon => exact h.imp fun r hr => ⟨hr.1, Eq.trans hsame hr.2⟩
  | hush => exact Eq.trans hsame h
  | survey => exact Eq.trans hsame h
  | hold i => exact h.imp fun e he => ⟨he.1, he.2.1, Eq.trans hsame he.2.2⟩

theorem State.BackedOff.not_stands (h : s.BackedOff d u o) : ¬u.Stands o := by
  cases o with
  | beacon =>
    obtain ⟨r, -, hr⟩ := h
    rintro ⟨r', hr'⟩
    cases hr.symm.trans hr'
  | hush => exact fun hu => HushHead.noConfusion (Eq.trans (Eq.symm h) hu.2)
  | survey => exact fun hu => Burst.noConfusion (Eq.trans (Eq.symm h) hu)
  | hold i =>
    obtain ⟨e, -, -, he⟩ := h
    rintro ⟨f, hf, hready⟩
    cases he.symm.trans hf
    cases hready

theorem State.DeferredOut.not_stands (h : s.DeferredOut u o) : ¬u.Stands o := by
  obtain ⟨i, e, rfl, -, -, hnone, -⟩ := h
  rintro ⟨f, hf, -⟩
  cases hnone.symm.trans hf

/-- A deferral of the owner in attempt: it backs off with one draw, or it is dropped with none (R18, R93). -/
theorem State.deferOwner_cases (hturn : s.InTurn .assessing o) (hseen : SeenLaw s) (hslot : SlotLaw s) :
    (s.BackedOff s.backoffDeadline (s.deferOwner o) o ∧ (s.deferOwner o).jitter = jitterStep s.jitter)
      ∨ s.DeferredOut (s.deferOwner o) o ∧ (s.deferOwner o).jitter = s.jitter := by
  cases o with
  | beacon =>
    obtain ⟨r, hr⟩ := hturn
    refine .inl ⟨⟨r, hr, ?_⟩, ?_⟩ <;> simp [State.deferOwner, hr, State.drawn]
  | hush => exact .inl ⟨rfl, rfl⟩
  | survey => exact .inl ⟨rfl, rfl⟩
  | hold i =>
    obtain ⟨e, he, -⟩ := hturn
    by_cases hmore : e.defers + 1 < 15
    · have hdefer : s.deferOwner (.hold i) = (State.drawn { s with tx := none }).setHold i (some { e with
          state := .holding, deadline := s.backoffDeadline, defers := e.defers + 1 }) := by
        simp only [State.deferOwner, he, if_pos hmore]
      rw [hdefer]
      exact .inl ⟨⟨e, he, hmore, setAt_same ..⟩, rfl⟩
    · have hdrop : s.deferOwner (.hold i) = State.removeHold { s with tx := none } i .channelBusy := by
        simp only [State.deferOwner, he, if_neg hmore]
      rw [hdrop]
      refine .inr ⟨⟨i, e, rfl, he, Nat.not_lt.1 hmore, ?_, ?_⟩, by simp⟩
      · rw [(State.removeHold_some (s := { s with tx := none }) he).1, setAt_same]
      · exact .of_removeHold (s := { s with tx := none }) hseen (hslot.of_frame ⟨rfl, rfl⟩) he rfl rfl

/-- After a deferral nothing requests that did not before (R15, R18). -/
theorem State.deferOwner_quiet (hdeferred : ¬(s.deferOwner o).Stands o) (h : s.nextRequest = none) :
    (s.deferOwner o).nextRequest = none := by
  rw [State.nextRequest_none_iff] at h ⊢
  intro o' ho'
  have hne : o ≠ o' := by
    rintro rfl
    exact hdeferred ho'
  exact h o' ((s.deferOwner_sameRecord hne).stands (by simp) ho')

end Deferred

/-- What the end of the event leaves of a busy judgement: the owner's record as the deferral wrote it, for a deferral
requests nothing, and no draw more where no other request stands (R15, R16, R18). -/
theorem judgedBusy_finish {s : State} {o : Owner} (hturn : s.InTurn .assessing o) (hseen : SeenLaw s)
    (hslot : SlotLaw s) :
    let u := (s.deferOwner o).finish
    (s.BackedOff s.backoffDeadline u o ∧ (s.nextRequest = none → u.jitter = jitterStep s.jitter)
      ∨ s.DeferredOut u o ∧ (s.nextRequest = none → u.jitter = s.jitter))
    ∧ (s.nextRequest = none → u.tx = none) := by
  intro u
  have settled (hdeferred : ¬(s.deferOwner o).Stands o) (hnone : s.nextRequest = none) :
      u = (s.deferOwner o).settle :=
    State.finish_of_quiet (quiet_of_none (State.deferOwner_quiet hdeferred hnone))
  rcases State.deferOwner_cases hturn hseen hslot with ⟨hbacked, hjitter⟩ | ⟨hout, hjitter⟩
  · refine ⟨.inl ⟨hbacked.of_same (State.finish_sameRecord hbacked.not_stands), fun hnone => ?_⟩, fun hnone => ?_⟩
    · rw [settled hbacked.not_stands hnone]
      exact hjitter
    · rw [settled hbacked.not_stands hnone]
      exact s.deferOwner_tx o
  · have hnot := hout.not_stands
    refine ⟨.inr ⟨?_, fun hnone => ?_⟩, fun hnone => ?_⟩
    · obtain ⟨i, e, rfl, he, hmany, hgone, hdropped⟩ := hout
      exact ⟨i, e, rfl, he, hmany, Eq.trans (State.finish_sameRecord hnot) hgone, hdropped.finish⟩
    · rw [settled hnot hnone]
      exact hjitter
    · rw [settled hnot hnone]
      exact s.deferOwner_tx o

/-- A training unit, a start mark or a level above BUSY_LEVEL is a busy judgement; what else it changes is the
receiver's (R9, R16). -/
theorem exec_busy {t : Time} {rate : Rate} {level : Int} {s : State} {a : Attempt} {c : Instr} (ha : s.tx = some a)
    (hp : a.phase = .assessing) (hrx : s.rx = .searching)
    (hc : c = .preambleDetected t rate 0xAA ∨ c = .preambleDetected t rate (startMarkOf rate)
      ∨ c = .busyLevelRise t level ∧ 1000 * (s.cfg.busyLevel : Int) < level) :
    ∃ r, exec c s = .next (State.deferOwner { s.advance t with rx := r } a.owner).finish := by
  have judged (r : Receiver) : State.judgeBusy { s.advance t with rx := r }
      = State.deferOwner { s.advance t with rx := r } a.owner := by
    have htx : State.tx { s.advance t with rx := r } = some a := ha
    rw [State.judgeBusy, htx]
    exact if_pos hp
  have detected {unit : Byte} {r : Receiver} (hunit : afterUnit rate unit = some r) :
      exec (.preambleDetected t rate unit) s
      = .next (State.deferOwner { s.advance t with rx := r } a.owner).finish := by
    rw [← judged]
    simp only [exec, execPreambleDetected, State.advance_rx, hrx, hunit]
  rcases hc with rfl | rfl | ⟨rfl, habove⟩
  · exact ⟨_, detected (if_pos rfl)⟩
  · exact ⟨_, detected (by rw [afterUnit, if_neg (startMarkOf_ne_trainingUnit rate), if_pos rfl])⟩
  · have hassessing : (s.advance t).assessing = true := by simp [State.assessing, ha, hp]
    refine ⟨s.rx, ?_⟩
    rw [← judged]
    exact if_pos ⟨hassessing, habove⟩

theorem exec_busyLevelRise_idle {t : Time} {level : Int} {s : State}
    (h : level ≤ 1000 * (s.cfg.busyLevel : Int) ∨ ∀ a, s.tx = some a → a.phase ≠ .assessing) :
    exec (.busyLevelRise t level) s = .next (s.advance t) := by
  refine if_neg ?_
  rintro ⟨hassessing, habove⟩
  rcases h with hbelow | hnone
  · exact absurd habove (not_lt.2 hbelow)
  · obtain ⟨a, ha, hp⟩ := Option.any_eq_true _ _ |>.1 hassessing
    exact hnone a ha (of_decide_eq_true hp)

/-- Settles O28: the owner, in attempt by the owners' law, backs off or is dropped, and requests nothing, so that the
arbiter leaves its record. -/
theorem busyJudgementDefersTheOwner : Obligations.BusyJudgementDefersTheOwner := by
  refine ⟨fun t rate level s a c ha hp hrx howner hseen hslot hc => ?_,
    fun t level s h => exec_busyLevelRise_idle h⟩
  intro backoff
  obtain ⟨r, hjudged⟩ := exec_busy ha hp hrx hc
  obtain ⟨-, howners⟩ := (ownerLaw_iff s).1 howner
  let v : State := { s.advance t with rx := r }
  have hexec : exec c s = .next (v.deferOwner a.owner).finish := hjudged
  have hturn : v.InTurn .assessing a.owner :=
    SameRecord.inTurn (s := s) (by cases a.owner <;> rfl) (hp ▸ howners.inTurn a ha)
  obtain ⟨hcases, hidle⟩ := judgedBusy_finish hturn (s := v) hseen (hslot.of_frame ⟨rfl, rfl⟩)
  have hqueue : (v.deferOwner a.owner).finish.hushQueue = s.hushQueue := by simp [v]
  have hburstRec : (v.deferOwner a.owner).finish.burstRec = s.burstRec := by simp [v]
  generalize (v.deferOwner a.owner).finish = u at hexec hcases hidle hqueue hburstRec
  refine ⟨u, hexec, ?_⟩
  rcases hcases with ⟨hbacked, hjitter⟩ | ⟨⟨i, e, howner, he, hmany, hgone, hdropped⟩, hjitter⟩
  · refine ⟨fun ho q hq => ?_, fun ho => ⟨?_, hqueue⟩, fun ho => ⟨?_, hburstRec⟩, fun i e ho he => ?_,
      fun hnone => ⟨hidle hnone, fun _ => hjitter hnone, fun i e ho he hmany => ?_⟩⟩
    · rw [ho] at hbacked
      obtain ⟨q', hq', hu⟩ := hbacked
      cases hq.symm.trans hq'
      exact hu
    · rw [ho] at hbacked
      exact hbacked
    · rw [ho] at hbacked
      exact hbacked
    all_goals
      rw [ho] at hbacked
      obtain ⟨e', he', hfew, hu⟩ := hbacked
      cases he.symm.trans he'
    · exact ⟨fun _ => hu, fun hmany => absurd hfew (Nat.not_lt.2 hmany)⟩
    · exact absurd hfew (Nat.not_lt.2 hmany)
  · rw [howner]
    refine ⟨nofun, nofun, nofun, fun j f ho hf => ?_,
      fun hnone => ⟨hidle hnone, fun hfew => ?_, fun _ _ _ _ _ => hjitter hnone⟩⟩
    · cases ho
      cases hf.symm.trans he
      exact ⟨fun hfew => absurd hfew (Nat.not_lt.2 hmany),
        fun _ => ⟨hgone, hdropped.1, fun k hk => (hdropped.2 k hk).1⟩⟩
    · exact absurd (hfew i e rfl he) (Nat.not_lt.2 hmany)

end Sys2Proof.Machine
end
